-- ==== Sys2Proof/Word.lean ====
section
/-! DEFINITION. The block's word types (00_scope.md R10, R14): bytes, 16-bit register ids, 32-bit times.
Every value is unsigned; `+` and `-` on them wrap at their width. -/

namespace Sys2Proof

/-- One element of the byte stream, a checksum, a command or a flags field (R10). -/
abbrev Byte := BitVec 8

/-- A HEX register id, "optional `register_id` (u16)" (R10). -/
abbrev RegId := BitVec 16

/-- A value of `now`: 32-bit unsigned time (R10, D3). -/
abbrev Time := BitVec 32

/-- A hex digit's value. -/
abbrev Nibble := BitVec 4

end Sys2Proof
end

