-- ==== Sys2Proof/Config.lean ====
section
/-! DEFINITION. The build-time configuration of 00_scope.md R9, with the constraints of 70_reset_and_hazards.md R344.
No operation changes it.  The spec leaves most of it OPEN ("a model must quantify over it or take it as an argument"):
State carries one, and a statement about every state is a statement about every configuration (log 3). -/

namespace Sys2Proof

/-- The parameters of R9, in the order of its table. -/
structure Config where
  /-- `TEXT_ENABLED`: the TEXT states exist (R3). -/
  textEnabled : Bool
  /-- `HEX_ENABLED`: the connect-time keepalive and sweep happen (R3, D17). -/
  hexEnabled : Bool
  /-- `TEXT_NAME_MAX`: bytes of a record's name; 8 by the document. -/
  textNameMax : Nat
  /-- `TEXT_VALUE_MAX`: bytes of a record's value; 32 by the document. -/
  textValueMax : Nat
  /-- `TEXT_RECORDS_MAX`: records of one TEXT frame. -/
  textRecordsMax : Nat
  /-- `HEX_RAW_CAP`: raw bytes of one received HEX frame, its checksum byte included. -/
  hexRawCap : Nat
  /-- `REQ_RAW_CAP`: raw bytes of one request, no checksum. -/
  reqRawCap : Nat
  /-- `ENC_CAP`: bytes of an encoded frame. -/
  encCap : Nat
  /-- `QUEUE_CAP`: slots of the request ring. -/
  queueCap : Nat
  /-- `COMMAND_TIMEOUT`, in units of `now`. -/
  commandTimeout : Time
  /-- `LINK_TIMEOUT`, in units of `now`. -/
  linkTimeout : Time
  /-- `HEX_LOWER_OK`: lowercase hex digits are digits on receive (D5). -/
  hexLowerOk : Bool
  /-- `INDEX_NONEMPTY`: the out-of-scope register index holds a key (R262). -/
  indexNonempty : Bool
  /-- `POLL_KEYS`: the register ids the sweep visits, in order (R262). -/
  pollKeys : List RegId
  /-- `TIME_UNIT`: the unit of `now` as an uninterpreted number; no rule depends on it (R9, D3). -/
  timeUnit : Nat
  deriving DecidableEq, Repr

/-- The constraints an integrator must meet before reset, "else the model refuses to be instantiated" (R344).
`TEXT_VALUE_MAX` is unconstrained there. -/
def Config.wf (c : Config) : Bool :=
  decide (8 ≤ c.textNameMax)
    && decide (1 ≤ c.textRecordsMax)
    && decide (1 ≤ c.hexRawCap)
    && decide (1 ≤ c.reqRawCap)
    && decide (2 * c.reqRawCap + 4 ≤ c.encCap)
    && decide (1 ≤ c.queueCap)
    && decide (1 ≤ c.commandTimeout.toNat) && decide (c.commandTimeout.toNat < 2 ^ 31)
    && decide (1 ≤ c.linkTimeout.toNat) && decide (c.linkTimeout.toNat < 2 ^ 31)
    && decide c.pollKeys.Nodup
    && (c.indexNonempty || c.pollKeys.isEmpty)

/-- The reference configuration of 95_test_vectors.md.  DESIGN CHOICE (unsafe, log 3): `State.reset` carries it, since the
spec leaves the parameters OPEN; `timeUnit` has no value there and is 1. -/
def Config.reference : Config :=
  { textEnabled := true, hexEnabled := true
    textNameMax := 8, textValueMax := 32, textRecordsMax := 4
    hexRawCap := 16, reqRawCap := 8, encCap := 20
    queueCap := 2
    commandTimeout := 1000#32, linkTimeout := 3000#32
    hexLowerOk := false
    indexNonempty := false, pollKeys := []
    timeUnit := 1 }

end Sys2Proof
end

