-- ==== Sys2Proof/Syntax.lean ====
section
/-! DEFINITION. What the host can present: one constructor per mnemonic of spec/opcode_table.json, in the table's order.
A mnemonic whose set of byte values takes several match/mask rows (RX_HEXDIGIT, RX_HEXDIGIT_LOWER, UnrecognisedReply) is one
constructor that carries the byte; the rows themselves stand in Decode.lean. -/

namespace Sys2Proof

/-- The completion identity of a request (42_tx_queue.md R240): the block's own, or a host's.
DESIGN CHOICE (log 14): the spec's Tag is opaque; a host tag is a 32-bit value here. -/
inductive Tag where
  | internal
  | host (id : BitVec 32)
  deriving DecidableEq, Repr

/-- The operations of the opcode table. -/
inductive Instr where
  -- format host_op: the host operations of 30_encoding.md R120 and the reserved selector
  /-- `RX_BYTE b now` (R180). -/
  | rxByte (b : Byte) (now : Time)
  /-- `TICK now` (R259). -/
  | tick (now : Time)
  /-- `REQUEST cmd reg payload tag now` (R241). -/
  | request (cmd : Byte) (reg : Option RegId) (payload : List Byte) (tag : Tag) (now : Time)
  /-- `CODEC_ENCODE raw` (R152). -/
  | codecEncode (raw : List Byte)
  /-- `CODEC_REENCODE chars` (R153); the list holds its terminating NUL or LF, if any. -/
  | codecReencode (chars : List Byte)
  /-- `IS_CONNECTED` (R264). -/
  | isConnected
  /-- `RESET` (R340). -/
  | reset
  /-- Selector 111, reserved (R121). -/
  | reservedOp
  -- formats rx_byte, rx_byte_if_HEX_LOWER_OK, rx_byte_default: RX_BYTE by class of the byte (R100)
  | rxColon (now : Time)
  | rxLf (now : Time)
  | rxTab (now : Time)
  | rxCr (now : Time)
  | rxNul (now : Time)
  | rxHexdigit (b : Byte) (now : Time)
  | rxHexdigitLower (b : Byte) (now : Time)
  | rxOther (b : Byte) (now : Time)
  -- format hex_request: REQUEST by command code (R107); a register id and a payload as the caller says (D18)
  | reqPing (reg : Option RegId) (payload : List Byte) (tag : Tag) (now : Time)
  | reqAppVersion (reg : Option RegId) (payload : List Byte) (tag : Tag) (now : Time)
  | reqProductId (reg : Option RegId) (payload : List Byte) (tag : Tag) (now : Time)
  | reqRestart (reg : Option RegId) (payload : List Byte) (tag : Tag) (now : Time)
  | reqGet (reg : Option RegId) (payload : List Byte) (tag : Tag) (now : Time)
  | reqSet (reg : Option RegId) (payload : List Byte) (tag : Tag) (now : Time)
  -- format hex_reply: a whole received frame by its raw[0] (R107); `rest` is raw[1..], no checksum
  | repDone (rest : List Byte) (now : Time)
  | repUnknown (rest : List Byte) (now : Time)
  | repError (rest : List Byte) (now : Time)
  | repPingResp (rest : List Byte) (now : Time)
  | repGet (rest : List Byte) (now : Time)
  | repSet (rest : List Byte) (now : Time)
  | repAsync (rest : List Byte) (now : Time)
  | repUnrecognised (code : Byte) (rest : List Byte) (now : Time)
  deriving DecidableEq, Repr

end Sys2Proof
end

