-- ==== Sys2Proof/WellFormed.lean ====
section
/-! DEFINITION. Which terms of Instr are operations of the table: a class row carries a byte of its class
(30_encoding.md R100, R102), an unrecognised reply a code without a reply name (R107), and a byte list fits the model's
length field (log 15). -/

namespace Sys2Proof

/-- `'0'..'9'` or `'A'..'F'` (R100, class HEXDIGIT without the lowercase digits). -/
def isHexdigitByte (b : Byte) : Bool :=
  (decide (0x30 ≤ b.toNat) && decide (b.toNat ≤ 0x39)) || (decide (0x41 ≤ b.toNat) && decide (b.toNat ≤ 0x46))

/-- `'a'..'f'` (R102). -/
def isHexdigitLowerByte (b : Byte) : Bool :=
  decide (0x61 ≤ b.toNat) && decide (b.toNat ≤ 0x66)

/-- A byte of no other row of the rx_byte formats. -/
def isOtherByte (b : Byte) : Bool :=
  !(b == 0x3A#8 || b == 0x0A#8 || b == 0x09#8 || b == 0x0D#8 || b == 0x00#8
    || isHexdigitByte b || isHexdigitLowerByte b)

/-- A command code with no reply name: 0x00, 0x02, 0x06, 0x09, 0x0B..0xFF (R107). -/
def isUnrecognisedCode (c : Byte) : Bool :=
  c == 0x00#8 || c == 0x02#8 || c == 0x06#8 || c == 0x09#8 || decide (0x0B ≤ c.toNat)

/-- The list's length fits the 16-bit length field of the host image (DESIGN CHOICE, log 15). -/
def fitsLength (xs : List Byte) : Bool :=
  decide (xs.length < 2 ^ 16)

/-- The terms that stand for an operation. -/
def Instr.wf : Instr → Bool
  | .rxByte _ _ => true
  | .tick _ => true
  | .request _ _ payload _ _ => fitsLength payload
  | .codecEncode raw => fitsLength raw
  | .codecReencode chars => fitsLength chars
  | .isConnected => true
  | .reset => true
  | .reservedOp => true
  | .rxColon _ => true
  | .rxLf _ => true
  | .rxTab _ => true
  | .rxCr _ => true
  | .rxNul _ => true
  | .rxHexdigit b _ => isHexdigitByte b
  | .rxHexdigitLower b _ => isHexdigitLowerByte b
  | .rxOther b _ => isOtherByte b
  | .reqPing _ payload _ _ => fitsLength payload
  | .reqAppVersion _ payload _ _ => fitsLength payload
  | .reqProductId _ payload _ _ => fitsLength payload
  | .reqRestart _ payload _ _ => fitsLength payload
  | .reqGet _ payload _ _ => fitsLength payload
  | .reqSet _ payload _ _ => fitsLength payload
  | .repDone rest _ => fitsLength rest
  | .repUnknown rest _ => fitsLength rest
  | .repError rest _ => fitsLength rest
  | .repPingResp rest _ => fitsLength rest
  | .repGet rest _ => fitsLength rest
  | .repSet rest _ => fitsLength rest
  | .repAsync rest _ => fitsLength rest
  | .repUnrecognised code rest _ => isUnrecognisedCode code && fitsLength rest

end Sys2Proof
end

