-- ==== Sys2Proof/Decode.lean ====
section
/-! DEFINITION. From the host's bytes to an operation, and back.

The spec gives an operation's 3-bit selector (30_encoding.md R121) "then its operands" (95_test_vectors.md L3), and the 8-bit
patterns of the received byte and of raw[0] (R100, R107); it gives no byte layout.  The layout here is the model's own
(DESIGN CHOICE, logs 1 and 2):

  first byte 0x00..0x07   bits 2:0 are the selector `op` of R121, then the operands
  first byte 0x08..0xFF   a bare received byte: the rx_byte row it matches, then `now`
  RX_BYTE and REQUEST carry a form byte after the selector: 0 the plain operation,
  1 a row of the table below it (a received byte under 8; a named hex_request), 2 (RX_BYTE only) a hex_reply row.

Numbers are little-endian; a byte list is its 16-bit length, then its bytes.  An encoding this file does not give is rejected
by name and never falls to a neighbour. -/

namespace Sys2Proof

/-- Why the host's bytes are no operation. -/
inductive DecodeError where
  /-- No byte is left. -/
  | noBytes
  /-- The bytes end inside an operation. -/
  | truncated
  /-- The form byte is none of its operation's. -/
  | badForm
  /-- A presence flag is neither 0 nor 1. -/
  | badFlag
  /-- A tag kind is neither host nor INTERNAL. -/
  | badTag
  /-- The byte matches no row of the table its form selects from. -/
  | noRow
  deriving DecidableEq, Repr

/-! ## The rows of spec/opcode_table.json -/

/-- One match/mask row. -/
structure Row (α : Type) where
  mask : Byte
  pat : Byte
  what : α
  deriving DecidableEq, Repr

def Row.hits {α : Type} (b : Byte) (r : Row α) : Bool := b &&& r.mask == r.pat

/-- What the first matching row stands for. -/
def rowOf {α : Type} (rows : List (Row α)) (b : Byte) : Option α := (rows.find? (Row.hits b)).map Row.what

/-- The classes of a received byte (R100), the lowercase digits apart (R102). -/
inductive RxClass where
  | colon | lf | tab | cr | nul | hexdigit | hexdigitLower | other
  deriving DecidableEq, Repr

/-- Formats rx_byte and rx_byte_if_HEX_LOWER_OK; the default row OTHER is what no row here hits. -/
def rxRows : List (Row RxClass) :=
  [⟨0xFF, 0x3A, .colon⟩, ⟨0xFF, 0x0A, .lf⟩, ⟨0xFF, 0x09, .tab⟩, ⟨0xFF, 0x0D, .cr⟩, ⟨0xFF, 0x00, .nul⟩] ++
  [⟨0xF8, 0x30, .hexdigit⟩, ⟨0xFE, 0x38, .hexdigit⟩, ⟨0xFF, 0x41, .hexdigit⟩, ⟨0xFE, 0x42, .hexdigit⟩,
   ⟨0xFE, 0x44, .hexdigit⟩, ⟨0xFF, 0x46, .hexdigit⟩] ++
  [⟨0xFF, 0x61, .hexdigitLower⟩, ⟨0xFE, 0x62, .hexdigitLower⟩, ⟨0xFE, 0x64, .hexdigitLower⟩,
   ⟨0xFF, 0x66, .hexdigitLower⟩]

/-- The class of a received byte (R100). -/
def rxClass (b : Byte) : RxClass := (rowOf rxRows b).getD .other

/-- The request names of R107. -/
inductive ReqName where
  | ping | appVersion | productId | restart | get | set
  deriving DecidableEq, Repr

/-- Format hex_request. -/
def reqRows : List (Row ReqName) :=
  [⟨0xFF, 0x01, .ping⟩, ⟨0xFF, 0x03, .appVersion⟩, ⟨0xFF, 0x04, .productId⟩, ⟨0xFF, 0x06, .restart⟩,
   ⟨0xFF, 0x07, .get⟩, ⟨0xFF, 0x08, .set⟩]

/-- The reply names of R107. -/
inductive RepName where
  | done | unknown | error | pingResp | get | set | async | unrecognised
  deriving DecidableEq, Repr

/-- Format hex_reply. -/
def repRows : List (Row RepName) :=
  [⟨0xFF, 0x01, .done⟩, ⟨0xFF, 0x03, .unknown⟩, ⟨0xFF, 0x04, .error⟩, ⟨0xFF, 0x05, .pingResp⟩,
   ⟨0xFF, 0x07, .get⟩, ⟨0xFF, 0x08, .set⟩, ⟨0xFF, 0x0A, .async⟩] ++
  [⟨0xFF, 0x00, .unrecognised⟩, ⟨0xFF, 0x02, .unrecognised⟩, ⟨0xFF, 0x06, .unrecognised⟩, ⟨0xFF, 0x09, .unrecognised⟩,
   ⟨0xFF, 0x0B, .unrecognised⟩, ⟨0xFC, 0x0C, .unrecognised⟩, ⟨0xF0, 0x10, .unrecognised⟩, ⟨0xE0, 0x20, .unrecognised⟩,
   ⟨0xC0, 0x40, .unrecognised⟩, ⟨0x80, 0x80, .unrecognised⟩]

/-- The class row's operation for the byte `b`. -/
def RxClass.instr (b : Byte) (now : Time) : RxClass → Instr
  | .colon => .rxColon now
  | .lf => .rxLf now
  | .tab => .rxTab now
  | .cr => .rxCr now
  | .nul => .rxNul now
  | .hexdigit => .rxHexdigit b now
  | .hexdigitLower => .rxHexdigitLower b now
  | .other => .rxOther b now

def ReqName.instr (reg : Option RegId) (payload : List Byte) (tag : Tag) (now : Time) : ReqName → Instr
  | .ping => .reqPing reg payload tag now
  | .appVersion => .reqAppVersion reg payload tag now
  | .productId => .reqProductId reg payload tag now
  | .restart => .reqRestart reg payload tag now
  | .get => .reqGet reg payload tag now
  | .set => .reqSet reg payload tag now

def RepName.instr (code : Byte) (rest : List Byte) (now : Time) : RepName → Instr
  | .done => .repDone rest now
  | .unknown => .repUnknown rest now
  | .error => .repError rest now
  | .pingResp => .repPingResp rest now
  | .get => .repGet rest now
  | .set => .repSet rest now
  | .async => .repAsync rest now
  | .unrecognised => .repUnrecognised code rest now

/-! ## Reading operands -/

/-! A reader answers the value at the front of the bytes and the bytes after it. -/

def getU8 : List Byte → Except DecodeError (Byte × List Byte)
  | b :: bs => .ok (b, bs)
  | [] => .error .truncated

def getU16 : List Byte → Except DecodeError (BitVec 16 × List Byte)
  | b0 :: b1 :: bs => .ok (b1 ++ b0, bs)
  | _ => .error .truncated

def getU32 : List Byte → Except DecodeError (BitVec 32 × List Byte)
  | b0 :: b1 :: b2 :: b3 :: bs => .ok (b3 ++ b2 ++ b1 ++ b0, bs)
  | _ => .error .truncated

/-- A length and that many bytes. -/
def getBytes (bs : List Byte) : Except DecodeError (List Byte × List Byte) := do
  let (n, bs) ← getU16 bs
  if bs.length < n.toNat then .error .truncated else .ok (bs.take n.toNat, bs.drop n.toNat)

/-- A presence flag and, when it is 1, a register id. -/
def getReg (bs : List Byte) : Except DecodeError (Option RegId × List Byte) := do
  let (f, bs) ← getU8 bs
  if f = 0 then .ok (none, bs)
  else if f = 1 then
    let (r, bs) ← getU16 bs
    .ok (some r, bs)
  else .error .badFlag

/-- A tag kind and, for a host tag (0), its value. -/
def getTag (bs : List Byte) : Except DecodeError (Tag × List Byte) := do
  let (k, bs) ← getU8 bs
  if k = 0 then
    let (t, bs) ← getU32 bs
    .ok (.host t, bs)
  else if k = 1 then .ok (.internal, bs)
  else .error .badTag

/-! ## The decoder -/

/-- RX_BYTE after its selector: the plain operation, a class row of a byte under 8, or a reply row. -/
def decodeRx (bs : List Byte) : Except DecodeError (Instr × List Byte) := do
  let (form, bs) ← getU8 bs
  if form = 0 then
    let (b, bs) ← getU8 bs
    let (now, bs) ← getU32 bs
    .ok (.rxByte b now, bs)
  else if form = 1 then
    let (b, bs) ← getU8 bs
    if b.toNat < 8 then
      let (now, bs) ← getU32 bs
      .ok ((rxClass b).instr b now, bs)
    else .error .noRow
  else if form = 2 then
    let (code, bs) ← getU8 bs
    let (rest, bs) ← getBytes bs
    let (now, bs) ← getU32 bs
    match rowOf repRows code with
    | some r => .ok (r.instr code rest now, bs)
    | none => .error .noRow
  else .error .badForm

/-- REQUEST after its selector: the plain operation, or a request row named by its command code. -/
def decodeRequest (bs : List Byte) : Except DecodeError (Instr × List Byte) := do
  let (form, bs) ← getU8 bs
  let (cmd, bs) ← getU8 bs
  let (reg, bs) ← getReg bs
  let (payload, bs) ← getBytes bs
  let (tag, bs) ← getTag bs
  let (now, bs) ← getU32 bs
  if form = 0 then .ok (.request cmd reg payload tag now, bs)
  else if form = 1 then
    match rowOf reqRows cmd with
    | some r => .ok (r.instr reg payload tag now, bs)
    | none => .error .noRow
  else .error .badForm

/-- The host operation of a selector (R121). -/
def decodeSelector (op : Nat) (bs : List Byte) : Except DecodeError (Instr × List Byte) :=
  match op with
  | 0 => decodeRx bs
  | 1 => do
    let (now, bs) ← getU32 bs
    .ok (.tick now, bs)
  | 2 => decodeRequest bs
  | 3 => do
    let (raw, bs) ← getBytes bs
    .ok (.codecEncode raw, bs)
  | 4 => do
    let (chars, bs) ← getBytes bs
    .ok (.codecReencode chars, bs)
  | 5 => .ok (.isConnected, bs)
  | 6 => .ok (.reset, bs)
  | _ => .ok (.reservedOp, bs)

/-- The first operation of the host's bytes, and the bytes after it. -/
def decode : List Byte → Except DecodeError (Instr × List Byte)
  | [] => .error .noBytes
  | b :: bs =>
    if b.toNat < 8 then decodeSelector b.toNat bs
    else do
      let (now, bs) ← getU32 bs
      .ok ((rxClass b).instr b now, bs)

/-! ## The encoder -/

def putU16 (v : BitVec 16) : List Byte := [v.extractLsb' 0 8, v.extractLsb' 8 8]

def putU32 (v : BitVec 32) : List Byte :=
  [v.extractLsb' 0 8, v.extractLsb' 8 8, v.extractLsb' 16 8, v.extractLsb' 24 8]

def putBytes (xs : List Byte) : List Byte := putU16 (BitVec.ofNat 16 xs.length) ++ xs

def putReg : Option RegId → List Byte
  | none => [0]
  | some r => 1 :: putU16 r

def putTag : Tag → List Byte
  | .host t => 0 :: putU32 t
  | .internal => [1]

/-- A class row's bytes: the bare byte, or form 1 of RX_BYTE for a byte that is a selector. -/
def encodeRx (b : Byte) (now : Time) : List Byte :=
  if b.toNat < 8 then [0x00, 1, b] ++ putU32 now else b :: putU32 now

/-- A reply row's bytes. -/
def encodeReply (code : Byte) (rest : List Byte) (now : Time) : List Byte :=
  [0x00, 2, code] ++ putBytes rest ++ putU32 now

/-- A request's bytes, plain (form 0) or named (form 1). -/
def encodeRequest (form cmd : Byte) (reg : Option RegId) (payload : List Byte) (tag : Tag) (now : Time) : List Byte :=
  [0x02, form, cmd] ++ putReg reg ++ putBytes payload ++ putTag tag ++ putU32 now

/-- The bytes of an operation. -/
def encode : Instr → List Byte
  | .rxByte b now => [0x00, 0, b] ++ putU32 now
  | .tick now => 0x01 :: putU32 now
  | .request cmd reg payload tag now => encodeRequest 0 cmd reg payload tag now
  | .codecEncode raw => 0x03 :: putBytes raw
  | .codecReencode chars => 0x04 :: putBytes chars
  | .isConnected => [0x05]
  | .reset => [0x06]
  | .reservedOp => [0x07]
  | .rxColon now => encodeRx 0x3A now
  | .rxLf now => encodeRx 0x0A now
  | .rxTab now => encodeRx 0x09 now
  | .rxCr now => encodeRx 0x0D now
  | .rxNul now => encodeRx 0x00 now
  | .rxHexdigit b now => encodeRx b now
  | .rxHexdigitLower b now => encodeRx b now
  | .rxOther b now => encodeRx b now
  | .reqPing reg payload tag now => encodeRequest 1 0x01 reg payload tag now
  | .reqAppVersion reg payload tag now => encodeRequest 1 0x03 reg payload tag now
  | .reqProductId reg payload tag now => encodeRequest 1 0x04 reg payload tag now
  | .reqRestart reg payload tag now => encodeRequest 1 0x06 reg payload tag now
  | .reqGet reg payload tag now => encodeRequest 1 0x07 reg payload tag now
  | .reqSet reg payload tag now => encodeRequest 1 0x08 reg payload tag now
  | .repDone rest now => encodeReply 0x01 rest now
  | .repUnknown rest now => encodeReply 0x03 rest now
  | .repError rest now => encodeReply 0x04 rest now
  | .repPingResp rest now => encodeReply 0x05 rest now
  | .repGet rest now => encodeReply 0x07 rest now
  | .repSet rest now => encodeReply 0x08 rest now
  | .repAsync rest now => encodeReply 0x0A rest now
  | .repUnrecognised code rest now => encodeReply code rest now

/-! ## The host's table word -/

/-- The first `nbits` bits of an operation as bytes, bit 0 the least significant bit of the first byte, with zero operands
after them up to the longest operation without list data (15 bytes). -/
def tableBytes (nbits w : Nat) : List Byte :=
  (List.range ((nbits + 7) / 8)).map (fun i => BitVec.ofNat 8 (w / 2 ^ (8 * i))) ++ List.replicate 15 0

/-- The operation the decoder reads from a table word. -/
def decodeTableWord (nbits w : Nat) : Option Instr :=
  match decode (tableBytes nbits w) with
  | .ok (i, _) => some i
  | .error _ => none

end Sys2Proof
end

