-- ==== Sys2Proof/Machine/State.lean ====
section
/-! DEFINITION. The state of the block: the elements of 10_state.md R31 to R46 and the trace of R60, the configuration it was
built with (log 3), and four fields of the model's own (`ret`, `lastNow`, `tickGap`, `inq`: logs 6, 7, 1). -/

namespace Sys2Proof.Machine

/-- `FS` (R31). -/
inductive FrameState where
  | idle | hex | textName | textValue | textChecksum
  deriving DecidableEq, Repr

/-- `FS_BACKUP` (R32): "it never holds `HEX`". -/
inductive BackupState where
  | idle | textName | textValue | textChecksum
  deriving DecidableEq, Repr

/-- The frame state a backup resumes. -/
def BackupState.toFrame : BackupState → FrameState
  | .idle => .idle
  | .textName => .textName
  | .textValue => .textValue
  | .textChecksum => .textChecksum

/-- Nibble alignment (R33). -/
inductive Phase where
  | aligned | half
  deriving DecidableEq, Repr

/-- A HexCodec decoder: `LEN` is `raw.length`, and only the meaningful prefix of `RAW` is held (R33, R34, log 9). -/
structure Codec where
  raw : List Byte
  phase : Phase
  hi : Nibble
  sum : Byte
  deriving DecidableEq, Repr

/-- The state `codec_init` gives a codec: "The sum is seeded at `0x55`" (R141). -/
def Codec.init : Codec := { raw := [], phase := .aligned, hi := 0, sum := 0x55 }

/-- One `name`/`value` pair of a TEXT frame (R37). -/
structure TextRecord where
  name : List Byte
  value : List Byte
  deriving DecidableEq, Repr

/-- A ring slot (R39, R240). -/
structure Slot where
  raw : List Byte
  cmd : Byte
  reg : Option RegId
  tag : Tag
  deriving DecidableEq, Repr

/-- Decode error codes (60_exceptions.md R301), values 0 to 5 in this order (D31). -/
inductive ErrorCode where
  | checksum | coding | overflow | nameOverflow | valueOverflow | recordOverflow
  deriving DecidableEq, Repr

/-- The sub-path an error came from (R301, D32). -/
inductive Path where
  | hex | text
  deriving DecidableEq, Repr

/-- Transaction statuses (R302), values 0 to 5 in this order (D31). -/
inductive Status where
  | success | timeout | unexpected | remote | flags | queueFull
  deriving DecidableEq, Repr

/-- The value column of R301. -/
def ErrorCode.value : ErrorCode → Nat
  | .checksum => 0
  | .coding => 1
  | .overflow => 2
  | .nameOverflow => 3
  | .valueOverflow => 4
  | .recordOverflow => 5

/-- The value column of R302. -/
def Status.value : Status → Nat
  | .success => 0
  | .timeout => 1
  | .unexpected => 2
  | .remote => 3
  | .flags => 4
  | .queueFull => 5

/-- The output events (R306). -/
inductive Event where
  | hexFrame (raw : List Byte)
  | textFrame (recs : List TextRecord)
  | decodeError (code : ErrorCode) (path : Path)
  | tx (bytes : List Byte)
  | resolved (tag : Tag) (status : Status) (reply : Option (List Byte))
  | linkDown
  | encoded (bytes : List Byte)
  | codecError (code : ErrorCode)
  deriving DecidableEq, Repr

/-- The whole state. -/
structure State where
  /-- The build-time configuration (R9); no operation writes it (log 3). -/
  cfg : Config
  /-- `FS`. -/
  fs : FrameState
  /-- `FS_BACKUP`. -/
  fsBackup : BackupState
  /-- `RXC_*`: the receive codec. -/
  rxc : Codec
  /-- `TXT_NAME[0..TXT_NAME_LEN)`. -/
  txtName : List Byte
  /-- `TXT_VALUE[0..TXT_VALUE_LEN)`. -/
  txtValue : List Byte
  /-- `TXT_REC[0..TXT_REC_COUNT)`. -/
  txtRec : List TextRecord
  /-- `TXT_SUM`. -/
  txtSum : Byte
  /-- The occupied ring slots, oldest first: element i is `Q[(Q_HEAD + i) mod QUEUE_CAP]`, its length `Q_COUNT` (log 10). -/
  q : List Slot
  /-- `Q_HEAD`. -/
  qHead : Nat
  /-- `Q_TX_TIME`. -/
  qTxTime : Time
  /-- `CONNECTED`. -/
  connected : Bool
  /-- `LAST_RX`. -/
  lastRx : Time
  /-- `SWEEP_ACTIVE`. -/
  sweepActive : Bool
  /-- `SWEEP_CURSOR`. -/
  sweepCursor : Nat
  /-- `REFUSED`. -/
  refused : Bool
  /-- `EV`, oldest event first. -/
  ev : List Event
  /-- The value the last operation returned to the host, if it returned one (model's own, log 6). -/
  ret : Option Bool
  /-- The last accepted `now` (model's own, log 7). -/
  lastNow : Option Time
  /-- Time units since the last accepted TICK (model's own, log 7). -/
  tickGap : Option Nat
  /-- The bytes of the operations still to be presented (model's own, log 1). -/
  inq : List Byte
  deriving DecidableEq, Repr

/-- A step never faults: "Nothing in the block traps, halts or stops accepting operations" (R300), so this type is empty. -/
inductive Fault where
  deriving DecidableEq, Repr

/-- Why a step is not made.  Each is outside the block: the operations the spec itself refuses set `REFUSED` and go on
(R316, log 5). -/
inductive Refusal where
  /-- An operation without a meaning; no arm of exec raises it.  Safe. -/
  | notModelled (mnemonic : String)
  /-- `step`: the host's bytes are no encoded operation (log 1).  Safe: no step is made. -/
  | undecodable (e : DecodeError)
  /-- `step`: the configuration breaks R344, "the model refuses to be instantiated" (log 4).  Safe: no step is made. -/
  | badConfig
  deriving DecidableEq, Repr

/-- The block right after reset, built with configuration `c` (R53; the model's own fields: logs 1, 6, 7). -/
def State.resetOf (c : Config) : State :=
  { cfg := c
    fs := .idle
    fsBackup := .idle
    rxc := Codec.init
    txtName := [], txtValue := [], txtRec := [], txtSum := 0
    q := [], qHead := 0, qTxTime := 0
    connected := false
    lastRx := 0
    sweepActive := false, sweepCursor := 0
    refused := false
    ev := []
    ret := none, lastNow := none, tickGap := none, inq := [] }

/-- The block right after reset in the reference configuration (log 3). -/
def State.reset : State := State.resetOf Config.reference

end Sys2Proof.Machine
end

