-- ==== Sys2Proof/Machine/Operands.lean ====
section
/-! DEFINITION. Operand forms: characters and hex digits (30_encoding.md R100 to R103), the fields of a raw frame
(R105, R106), and the reply class of a received frame (R107). -/

namespace Sys2Proof.Machine

/-! Characters (00_scope.md R15). -/

@[simp] abbrev chColon : Byte := 0x3A#8
@[simp] abbrev chLf : Byte := 0x0A#8
@[simp] abbrev chTab : Byte := 0x09#8
@[simp] abbrev chCr : Byte := 0x0D#8
@[simp] abbrev chNul : Byte := 0x00#8

/-- The bytes of `"Checksum"` (41_frame_decoder.md R186). -/
def checksumName : List Byte := [0x43, 0x68, 0x65, 0x63, 0x6B, 0x73, 0x75, 0x6D]

/-- `hexval` (R102); lowercase digits only when `HEX_LOWER_OK`. -/
def hexval (lowerOk : Bool) (c : Byte) : Option Nibble :=
  if 0x30 ≤ c ∧ c ≤ 0x39 then some ((c - 0x30).setWidth 4)
  else if 0x41 ≤ c ∧ c ≤ 0x46 then some ((c - 0x41 + 10).setWidth 4)
  else if lowerOk ∧ 0x61 ≤ c ∧ c ≤ 0x66 then some ((c - 0x61 + 10).setWidth 4)
  else none

/-- `hexdig` (R103), uppercase. -/
def hexdig (v : Nibble) : Byte :=
  if v ≤ 9 then 0x30 + v.setWidth 8 else 0x41 + v.setWidth 8 - 10

/-- `b[7:4]`. -/
def hiNibble (b : Byte) : Nibble := b.extractLsb' 4 4

/-- `b[3:0]`. -/
def loNibble (b : Byte) : Nibble := b.extractLsb' 0 4

/-- The two digits of a byte, high nibble first (20_memory.md R77). -/
def digits (b : Byte) : List Byte := [hexdig (hiNibble b), hexdig (loNibble b)]

/-- The byte of two digit values, `hi * 16 + lo` (R77, 40_hex_codec.md R145). -/
def byteOf (hi lo : Nibble) : Byte := hi.setWidth 8 * 16 + lo.setWidth 8

/-- `lo8(r)` (00_scope.md R16). -/
def lo8 (r : RegId) : Byte := r.extractLsb' 0 8

/-- `hi8(r)` (R16). -/
def hi8 (r : RegId) : Byte := r.extractLsb' 8 8

/-- The register id two wire bytes give, low byte first (20_memory.md R75). -/
def regOf (lo hi : Byte) : RegId := lo.setWidth 16 ||| (hi.setWidth 16 <<< 8)

/-- The raw frame of a request: command, then with a register id its two bytes and the flags byte 0x00, then the payload
(30_encoding.md R106 (b), 42_tx_queue.md R241). -/
def requestRaw (cmd : Byte) (reg : Option RegId) (payload : List Byte) : List Byte :=
  match reg with
  | none => cmd :: payload
  | some r => [cmd, lo8 r, hi8 r, 0x00] ++ payload

/-- The reply classes of R107. -/
inductive ReplyClass where
  | done | pingResp | register | remoteCode | async | unrecognised
  deriving DecidableEq, Repr

/-- `class(raw)` (42_tx_queue.md R248): by `raw[0]`, and UNRECOGNISED when `raw` is empty. -/
def replyClass (raw : List Byte) : ReplyClass :=
  match raw with
  | [] => .unrecognised
  | c :: _ =>
    if c = 0x01 then .done
    else if c = 0x03 ∨ c = 0x04 then .remoteCode
    else if c = 0x05 then .pingResp
    else if c = 0x07 ∨ c = 0x08 then .register
    else if c = 0x0A then .async
    else .unrecognised

end Sys2Proof.Machine
end

