-- ==== Sys2Proof/Machine/Flags.lean ====
section
/-! DEFINITION. Computed conditions: the HEX checksum (40_hex_codec.md R149), elapsed time and the timeout tests
(42_tx_queue.md R259, R269), the admitted values of `now` (70_reset_and_hazards.md R346), and the status a register reply
gives its request (R252, R253). -/

namespace Sys2Proof.Machine

/-- The checksum generator: seeded at 0x55, each raw byte subtracted from it (R149). -/
def checksum (raw : List Byte) : Byte := raw.foldl (fun s b => s - b) 0x55

/-- `elapsed(t0, t1)`, mod 2^32 (R269). -/
def elapsed (t0 t1 : Time) : Time := t1 - t0

/-- A request is in flight (10_state.md R41). -/
def State.inFlight (s : State) : Bool := !s.q.isEmpty

/-- The link timeout has passed while connected (R260). -/
def State.linkExpired (s : State) (now : Time) : Bool :=
  s.connected && decide (s.cfg.linkTimeout ≤ elapsed s.lastRx now)

/-- The in-flight request's timeout has passed (R263). -/
def State.commandExpired (s : State) (now : Time) : Bool :=
  s.inFlight && decide (s.cfg.commandTimeout ≤ elapsed s.qTxTime now)

/-- Units from the last accepted `now` to this one; 0 for the first one after reset. -/
def State.sinceLast (s : State) (now : Time) : Nat :=
  match s.lastNow with
  | none => 0
  | some p => (elapsed p now).toNat

/-- "no timer's elapsed time reaches 2^31 before a `TICK` sees it" (R346): the command timer, which runs while a request is in
flight, and the link timer, which runs while connected.  A TICK that sees a timer at its timeout ends it, so one that still
runs has not been seen; and while every accepted `now` passes this test, the elapsed time mod 2^32 is the true one. -/
def State.timersOk (s : State) (now : Time) : Bool :=
  (!s.inFlight || decide ((elapsed s.qTxTime now).toNat < 2 ^ 31)) &&
  (!s.connected || decide ((elapsed s.lastRx now).toNat < 2 ^ 31))

/-- `now` keeps R346: "each `now` minus the previous one, mod 2^32, is less than 2^31", and no running timer has reached 2^31
(log 7). -/
def State.nowOk (s : State) (now : Time) : Bool := decide (s.sinceLast now < 2 ^ 31) && s.timersOk now

/-- "between any two consecutive `TICK`s less than `2^31 - max(COMMAND_TIMEOUT, LINK_TIMEOUT)` units pass" (R346); the first
TICK after reset has none before it, and `timersOk` bounds the timers it sees. -/
def State.tickGapOk (s : State) (now : Time) : Bool :=
  match s.tickGap with
  | none => true
  | some g => decide (g + s.sinceLast now < 2 ^ 31 - max s.cfg.commandTimeout.toNat s.cfg.linkTimeout.toNat)

/-- `match_register(req, raw)`: UNEXPECTED unless a reply of at least four bytes carries the request's command and register
id (R252), then FLAGS or SUCCESS by its flags byte (R253). -/
def matchRegister (req : Slot) (raw : List Byte) : Status :=
  match raw with
  | c :: lo :: hi :: flags :: _ =>
    if req.cmd = c ∧ req.reg = some (regOf lo hi) then
      if flags = 0x00 then .success else .flags
    else .unexpected
  | _ => .unexpected

/-- The status a received frame resolves the in-flight request with, or none for an `Async` (R248 to R255). -/
def replyStatus (req : Slot) (raw : List Byte) : Option Status :=
  match replyClass raw with
  | .async => none
  | .done => some .success
  | .pingResp => some (if req.cmd = 0x01 then .success else .unexpected)
  | .register => some (matchRegister req raw)
  | .remoteCode => some .remote
  | .unrecognised => some .remote

end Sys2Proof.Machine
end

