-- ==== Sys2Proof/Machine/Ops.lean ====
section
/-! DEFINITION. The named operations the meanings share: events and refusals, `now`, the HexCodec (40_hex_codec.md), decode
errors with their recovery and the resume of a backup state (41_frame_decoder.md R182, R195 to R198: this block's taking of
an exception and its return), the TEXT buffers, and the request ring (42_tx_queue.md). -/

namespace Sys2Proof.Machine

/-! ## Events, returned values, refusals, time -/

/-- `emit` (00_scope.md R16, 10_state.md R60). -/
def emit (s : State) (e : Event) : State := { s with ev := s.ev ++ [e] }

/-- `return v` (R16). -/
def giveBack (v : Option Bool) (s : State) : State := { s with ret := v }

/-- `refuse` (60_exceptions.md R316): `REFUSED <- true` and no other change; nothing is returned (log 6). -/
def refuse (s : State) : State := giveBack none { s with refused := true }

/-- Note an accepted `now` (log 7). -/
def stamp (now : Time) (s : State) : State :=
  { s with lastNow := some now, tickGap := s.tickGap.map (· + s.sinceLast now) }

/-- Note an accepted TICK (log 7). -/
def stampTick (now : Time) (s : State) : State :=
  { s with lastNow := some now, tickGap := some 0 }

/-- Run a timed operation, or refuse it when its `now` breaks R346 (R316). -/
def timed (now : Time) (body : State → State) (s : State) : State :=
  if s.nowOk now then body (stamp now s) else refuse s

/-! ## HexCodec -/

/-- The results of `DecodeStep` (R154). -/
inductive DecodeResult where
  | continue
  | valid (raw : List Byte)
  | checksumError
  | codingError
  | overflow
  | terminated (raw : List Byte)
  deriving DecidableEq, Repr

/-- DecodeStep on LF (R142): alignment first, then the sum; the checksum byte is popped. -/
def codecEnd (cs : Codec) : DecodeResult :=
  if cs.phase = .half then .codingError
  else if cs.sum ≠ 0x00 then .checksumError
  else .valid cs.raw.dropLast

/-- DecodeStep on NUL (R143, and R146 while half). -/
def codecNul (cs : Codec) : DecodeResult :=
  match cs.phase with
  | .aligned => .terminated cs.raw
  | .half => .codingError

/-- DecodeStep on a hex digit of value `v` (R144, R145). -/
def codecNibble (cap : Nat) (v : Nibble) (cs : Codec) : Codec × DecodeResult :=
  match cs.phase with
  | .aligned => ({ cs with hi := v, phase := .half }, .continue)
  | .half =>
    let byte := byteOf cs.hi v
    if cs.raw.length = cap then (cs, .overflow)
    else ({ cs with raw := cs.raw ++ [byte], sum := cs.sum - byte, phase := .aligned }, .continue)

/-- DecodeStep on a character that must be a hex digit (R144 to R146). -/
def codecDigit (cap : Nat) (lowerOk : Bool) (c : Byte) (cs : Codec) : Codec × DecodeResult :=
  match hexval lowerOk c with
  | some v => codecNibble cap v cs
  | none => (cs, .codingError)

/-- `DecodeStep(cs, c)`, its cases in the order R142, R143, R144/R145, R146. -/
def decodeStep (cap : Nat) (lowerOk : Bool) (c : Byte) (cs : Codec) : Codec × DecodeResult :=
  if c = chLf then (cs, codecEnd cs)
  else if c = chNul then (cs, codecNul cs)
  else codecDigit cap lowerOk c cs

/-- `Encode(raw)` (R148, R104). -/
def encodeFrame (raw : List Byte) : List Byte :=
  chColon :: (raw.flatMap digits ++ digits (checksum raw) ++ [chLf])

/-! ## Decoder: clearing, entering HEX, decode errors and resuming -/

/-- `codec_clear()` (R182), the same registers as `codec_init` (R141). -/
def codecClear (s : State) : State := { s with rxc := Codec.init }

/-- `text_clear()` (R182). -/
def textClear (s : State) : State := { s with txtName := [], txtValue := [], txtRec := [], txtSum := 0 }

/-- `text_abort()` (R182). -/
def textAbort (s : State) : State := { textClear s with fs := .idle }

/-- `decoder_reset()` (R182). -/
def decoderReset (s : State) : State := { textClear (codecClear s) with fs := .idle, fsBackup := .idle }

/-- Enter `HEX`, saving where TEXT stood (R183). -/
def enterHex (from' : BackupState) (s : State) : State :=
  { s with fsBackup := from', fs := .hex, rxc := Codec.init }

/-- Resume the backup state (R195, R196). -/
def resumeBackup (s : State) : State :=
  codecClear { s with fs := s.fsBackup.toFrame, fsBackup := .idle }

/-- How a decode error leaves the decoder (60_exceptions.md R312). -/
inductive Recovery where
  /-- `text_abort` (R187, R190, R191, R193). -/
  | abortText
  /-- Resume the interrupted frame (R196). -/
  | resume
  /-- `decoder_reset` (R197, R198). -/
  | resetDecoder
  deriving DecidableEq, Repr

def Recovery.apply (r : Recovery) (s : State) : State :=
  match r with
  | .abortText => textAbort s
  | .resume => resumeBackup s
  | .resetDecoder => decoderReset s

/-- Raise a decode error: its event, then its recovery within the same operation (R301, R312). -/
def raise (code : ErrorCode) (path : Path) (r : Recovery) (s : State) : State :=
  r.apply (emit s (.decodeError code path))

/-- What `fd_step` returns (R180). -/
inductive FdResult where
  | none
  | hexFrame (raw : List Byte)
  | textFrame (recs : List TextRecord)
  deriving DecidableEq, Repr

/-- In `HEX`: the codec's new registers and result select one of R194 to R198. -/
def hexOutcome (r : Codec × DecodeResult) (s : State) : State × FdResult :=
  let s := { s with rxc := r.1 }
  match r.2 with
  | .continue => (s, .none)
  | .valid raw => (resumeBackup (emit s (.hexFrame raw)), .hexFrame raw)
  | .checksumError => (raise .checksum .hex .resume s, .none)
  | .codingError => (raise .coding .hex .resetDecoder s, .none)
  | .terminated _ => (raise .coding .hex .resetDecoder s, .none)
  | .overflow => (raise .overflow .hex .resetDecoder s, .none)

/-! ## TEXT states -/

/-- LF in `IDLE` with TEXT enabled: start a TEXT frame (R184). -/
def startText (s : State) : State := { textClear s with txtSum := chLf, fs := .textName }

/-- TAB in `TEXT_NAME`: end of name (R186). -/
def endName (s : State) : State :=
  if s.txtName = checksumName then { s with txtSum := s.txtSum + chTab, fs := .textChecksum }
  else { s with txtSum := s.txtSum + chTab, txtValue := [], fs := .textValue }

/-- An ordinary byte in `TEXT_NAME`: the bound first (R187), then the name byte (R188). -/
def nameByte (b : Byte) (s : State) : State :=
  if s.txtName.length = s.cfg.textNameMax then raise .nameOverflow .text .abortText s
  else { s with txtSum := s.txtSum + b, txtName := s.txtName ++ [b] }

/-- CR in `TEXT_VALUE`: summed only (R189). -/
def valueCr (s : State) : State := { s with txtSum := s.txtSum + chCr }

/-- LF in `TEXT_VALUE`: end of record (R190). -/
def endRecord (s : State) : State :=
  if s.txtRec.length = s.cfg.textRecordsMax then raise .recordOverflow .text .abortText s
  else
    { s with
      txtSum := s.txtSum + chLf
      txtRec := s.txtRec ++ [{ name := s.txtName, value := s.txtValue }]
      txtName := [], txtValue := [], fs := .textName }

/-- An ordinary byte in `TEXT_VALUE`: the bound first (R191), then the value byte (R192). -/
def valueByte (b : Byte) (s : State) : State :=
  if s.txtValue.length = s.cfg.textValueMax then raise .valueOverflow .text .abortText s
  else { s with txtSum := s.txtSum + b, txtValue := s.txtValue ++ [b] }

/-- The checksum byte: the frame ends, well or not, in `IDLE` (R193). -/
def checksumByte (b : Byte) (s : State) : State × FdResult :=
  let s' := { s with txtSum := s.txtSum + b }
  if s.txtSum + b = 0 then (textAbort (emit s' (.textFrame s.txtRec)), .textFrame s.txtRec)
  else (raise .checksum .text .abortText s', .none)

/-! ## The request ring -/

/-- `transmit_head(now)` (42_tx_queue.md R245). -/
def transmitHead (now : Time) (s : State) : State :=
  match s.q with
  | [] => s
  | r :: _ => { emit s (.tx (encodeFrame r.raw)) with qTxTime := now }

/-- `enqueue` (R243, R244): the new state and whether the request was accepted. -/
def enqueue (r : Slot) (now : Time) (s : State) : State × Bool :=
  if s.q.length = s.cfg.queueCap then (emit s (.resolved r.tag .queueFull none), false)
  else
    let s := { s with q := s.q ++ [r] }
    (if s.q.length = 1 then transmitHead now s else s, true)

/-- The keepalive `Ping` (R258). -/
def pingSlot : Slot := { raw := [0x01], cmd := 0x01, reg := none, tag := .internal }

/-- The sweep's `Get` of a key (R247). -/
def getSlot (k : RegId) : Slot :=
  { raw := [0x07, lo8 k, hi8 k, 0x00], cmd := 0x07, reg := some k, tag := .internal }

/-- `sweep_next(now)` (R247). -/
def sweepNext (now : Time) (s : State) : State :=
  match s.cfg.pollKeys[s.sweepCursor]? with
  | some k => (enqueue (getSlot k) now { s with sweepCursor := s.sweepCursor + 1 }).1
  | none => { s with sweepActive := false }

/-- Free the slot at `Q_HEAD`. -/
def popHead (rest : List Slot) (s : State) : State :=
  { s with q := rest, qHead := (s.qHead + 1) % s.cfg.queueCap }

/-- `resolve_head(status, reply, now)` (R246); called with a request in flight. -/
def resolveHead (status : Status) (reply : Option (List Byte)) (now : Time) (s : State) : State :=
  match s.q with
  | [] => s
  | r :: rest =>
    let s := popHead rest (emit s (.resolved r.tag status reply))
    if rest ≠ [] then transmitHead now s
    else if s.sweepActive then sweepNext now s
    else s

/-- `tm_on_hex_reply(raw, now)` (R248). -/
def onHexReply (raw : List Byte) (now : Time) (s : State) : State :=
  match s.q with
  | [] => s
  | req :: _ =>
    match replyStatus req raw with
    | none => s
    | some st => resolveHead st (some raw) now s

/-- `tm_maybe_connect(now)` (R258). -/
def maybeConnect (now : Time) (s : State) : State :=
  if s.connected then s
  else
    let s := { s with connected := true }
    if s.cfg.hexEnabled && s.cfg.indexNonempty then
      (enqueue pingSlot now { s with sweepActive := true, sweepCursor := 0 }).1
    else s

/-- Resolve the given slots with TIMEOUT, oldest first, transmitting nothing (R261). -/
def flushQueue : List Slot → State → State
  | [], s => s
  | r :: rest, s => flushQueue rest (popHead rest (emit s (.resolved r.tag .timeout none)))

/-- `link_down(now)` (R261). -/
def linkDown (s : State) : State :=
  let s := decoderReset { s with connected := false }
  let s := flushQueue s.q s
  emit { s with sweepActive := false, sweepCursor := 0 } .linkDown

/-! ## Delivering a byte -/

/-- `RX_BYTE`'s frame around `fd_step` (R180): `LAST_RX` first, then the decoder, then reply matching, then connection. -/
def deliver (now : Time) (fd : State → State × FdResult) (s : State) : State :=
  let r := fd (giveBack none { s with lastRx := now })
  match r.2 with
  | .none => r.1
  | .hexFrame raw => maybeConnect now (onHexReply raw now r.1)
  | .textFrame _ => maybeConnect now r.1

/-- The operation the host presents next, and the bytes after it (log 1). -/
def fetch (s : State) : Except DecodeError (Instr × List Byte) := decode s.inq

end Sys2Proof.Machine
end

