-- ==== Sys2Proof/Machine/Control.lean ====
section
/-! DEFINITION. `TICK` (42_tx_queue.md R259), `IS_CONNECTED` (R264), `RESET` (70_reset_and_hazards.md R340) and the reserved
selector (30_encoding.md R121). -/

namespace Sys2Proof.Machine

/-- The body of `TICK @now`: the link check, else at most one command timeout (R259). -/
def tickBody (now : Time) (s : State) : State :=
  if s.linkExpired now then linkDown s
  else if s.commandExpired now then resolveHead .timeout none now s
  else s

/-- `TICK @now`, refused when its `now` (a running timer past 2^31 among it) or the gap since the last TICK breaks R346
(R316). -/
def tick (now : Time) (s : State) : State :=
  if s.nowOk now && s.tickGapOk now then tickBody now (giveBack none (stampTick now s)) else refuse s

/-- `TICK` (R259). -/
def execTick (now : Time) (s : State) : Host.Outcome State Fault Refusal := .next (tick now s)

/-- `IS_CONNECTED` returns `CONNECTED` (R264). -/
def execIsConnected (s : State) : Host.Outcome State Fault Refusal :=
  .next (giveBack (some s.connected) s)

/-- `RESET`, written as R340 writes it; the model's own fields return to their reset values, the configuration and the host's
input stay (logs 3, 17). -/
def resetBlock (s : State) : State :=
  { decoderReset s with
    q := [], qHead := 0, qTxTime := 0
    connected := false, lastRx := 0
    sweepActive := false, sweepCursor := 0
    refused := false, ev := []
    ret := none, lastNow := none, tickGap := none }

/-- `RESET` (R340). -/
def execReset (s : State) : Host.Outcome State Fault Refusal := .next (resetBlock s)

/-- Selector 111: "an operation with `op = 111` is refused" (R121, R316). -/
def execReservedOp (s : State) : Host.Outcome State Fault Refusal := .next (refuse s)

end Sys2Proof.Machine
end

