-- ==== Sys2Proof/Machine/FrameDecoder.lean ====
section
/-! DEFINITION. `RX_BYTE` (41_frame_decoder.md): `fd_step` written state by state in the test order of 30_encoding.md R101,
`':'` first, then the state's delimiters, then the length bound, then the ordinary byte. -/

namespace Sys2Proof.Machine

/-- Every byte in `HEX` goes to the receive codec (R194 to R199). -/
def fdHex (b : Byte) (s : State) : State × FdResult :=
  hexOutcome (decodeStep s.cfg.hexRawCap s.cfg.hexLowerOk b s.rxc) s

/-- A byte in `IDLE` (R183 to R185). -/
def fdIdle (b : Byte) (s : State) : State :=
  if b = chColon then enterHex .idle s
  else if b = chLf then if s.cfg.textEnabled then startText s else s
  else s

/-- A byte in `TEXT_NAME` (R183, R186 to R188). -/
def fdName (b : Byte) (s : State) : State :=
  if b = chColon then enterHex .textName s
  else if b = chTab then endName s
  else nameByte b s

/-- A byte in `TEXT_VALUE` (R183, R189 to R192). -/
def fdValue (b : Byte) (s : State) : State :=
  if b = chColon then enterHex .textValue s
  else if b = chCr then valueCr s
  else if b = chLf then endRecord s
  else valueByte b s

/-- A byte in `TEXT_CHECKSUM` (R183, R193, R205). -/
def fdChecksum (b : Byte) (s : State) : State × FdResult :=
  if b = chColon then (enterHex .textChecksum s, .none)
  else checksumByte b s

/-- `fd_step(b)`: the handling "is chosen by `FS` alone" (10_state.md R48). -/
def fdStep (b : Byte) (s : State) : State × FdResult :=
  match s.fs with
  | .idle => (fdIdle b s, .none)
  | .hex => fdHex b s
  | .textName => (fdName b s, .none)
  | .textValue => (fdValue b s, .none)
  | .textChecksum => fdChecksum b s

/-- The effect of `RX_BYTE b @now` (R180). -/
def rxByte (b : Byte) (now : Time) (s : State) : State := timed now (deliver now (fdStep b)) s

/-- `RX_BYTE b now` (R180). -/
def execRxByte (b : Byte) (now : Time) (s : State) : Host.Outcome State Fault Refusal :=
  .next (rxByte b now s)

end Sys2Proof.Machine
end

