-- ==== Sys2Proof/Machine/HexCodec.lean ====
section
/-! DEFINITION. The codec host operations (40_hex_codec.md section 4).  They write no state but `EV` (10_state.md R47). -/

namespace Sys2Proof.Machine

/-- The event of `CODEC_ENCODE raw` (R152). -/
def encodeEvent (c : Config) (raw : List Byte) : Event :=
  if raw = [] then .codecError .coding
  else if c.reqRawCap < raw.length then .codecError .overflow
  else .encoded (encodeFrame raw)

/-- `CODEC_REENCODE` feeds the scratch instance, of capacity `REQ_RAW_CAP + 1`, until it ends; an ended frame is judged and
encoded as `CODEC_ENCODE` does, an unterminated string is `CODING` (R153). -/
def reencodeLoop (c : Config) : List Byte → Codec → Event
  | [], _ => .codecError .coding
  | ch :: rest, cs =>
    let r := decodeStep (c.reqRawCap + 1) c.hexLowerOk ch cs
    match r.2 with
    | .continue => reencodeLoop c rest r.1
    | .valid d => encodeEvent c d
    | .terminated d => encodeEvent c d
    | .checksumError => .codecError .checksum
    | .codingError => .codecError .coding
    | .overflow => .codecError .overflow

/-- A leading `':'` is skipped (R153). -/
def skipColon : List Byte → List Byte
  | [] => []
  | ch :: rest => if ch = chColon then rest else ch :: rest

/-- The event of `CODEC_REENCODE chars` (R153). -/
def reencodeEvent (c : Config) (chars : List Byte) : Event :=
  if c.encCap < chars.length then .codecError .overflow
  else reencodeLoop c (skipColon chars) Codec.init

/-- `CODEC_ENCODE raw` (R152). -/
def execCodecEncode (raw : List Byte) (s : State) : Host.Outcome State Fault Refusal :=
  .next (giveBack none (emit s (encodeEvent s.cfg raw)))

/-- `CODEC_REENCODE chars` (R153). -/
def execCodecReencode (chars : List Byte) (s : State) : Host.Outcome State Fault Refusal :=
  .next (giveBack none (emit s (reencodeEvent s.cfg chars)))

end Sys2Proof.Machine
end

