-- ==== Sys2Proof/Machine/Replies.lean ====
section
/-! DEFINITION. The hex_reply rows of the opcode table: a well-formed HEX frame with the row's `raw[0]` delivered on the line,
by the spec's pseudo-operation `FEED_HEX raw @now = FEED Encode(raw) @now` (30_encoding.md R123; log 11).  What the reply then
does to the request in flight is `onHexReply` (42_tx_queue.md R248 to R255). -/

namespace Sys2Proof.Machine

/-- `FEED "s" @now`: one `RX_BYTE` per byte, in order (R123). -/
def feed (now : Time) : List Byte → State → State
  | [], s => s
  | b :: bs, s => feed now bs (rxByte b now s)

/-- `FEED_HEX raw @now` (R123). -/
def feedHex (raw : List Byte) (now : Time) (s : State) : State := feed now (encodeFrame raw) s

/-- Done (R250). -/
def execRepDone (rest : List Byte) (now : Time) (s : State) : Host.Outcome State Fault Refusal :=
  .next (feedHex (0x01 :: rest) now s)

/-- Unknown (R254). -/
def execRepUnknown (rest : List Byte) (now : Time) (s : State) : Host.Outcome State Fault Refusal :=
  .next (feedHex (0x03 :: rest) now s)

/-- Error (R254). -/
def execRepError (rest : List Byte) (now : Time) (s : State) : Host.Outcome State Fault Refusal :=
  .next (feedHex (0x04 :: rest) now s)

/-- PingResp (R251). -/
def execRepPingResp (rest : List Byte) (now : Time) (s : State) : Host.Outcome State Fault Refusal :=
  .next (feedHex (0x05 :: rest) now s)

/-- GetReply (R252, R253). -/
def execRepGet (rest : List Byte) (now : Time) (s : State) : Host.Outcome State Fault Refusal :=
  .next (feedHex (0x07 :: rest) now s)

/-- SetReply (R252, R253). -/
def execRepSet (rest : List Byte) (now : Time) (s : State) : Host.Outcome State Fault Refusal :=
  .next (feedHex (0x08 :: rest) now s)

/-- Async (R249). -/
def execRepAsync (rest : List Byte) (now : Time) (s : State) : Host.Outcome State Fault Refusal :=
  .next (feedHex (0x0A :: rest) now s)

/-- UnrecognisedReply (R255). -/
def execRepUnrecognised (code : Byte) (rest : List Byte) (now : Time) (s : State) : Host.Outcome State Fault Refusal :=
  .next (feedHex (code :: rest) now s)

end Sys2Proof.Machine
end

