-- ==== Sys2Proof/Machine/RxClasses.lean ====
section
/-! DEFINITION. The received-byte rows of the opcode table: `RX_BYTE` read class by class, each function one row of the
decoding map of 30_encoding.md R100.  That the map agrees with the state-by-state reading of FrameDecoder.lean for the byte's
class is a statement, not a definition (log 13). -/

namespace Sys2Proof.Machine

/-- Row COLON: enter HEX, or CODING in HEX (R183, R199). -/
def mapColon (s : State) : State × FdResult :=
  match s.fs with
  | .idle => (enterHex .idle s, .none)
  | .textName => (enterHex .textName s, .none)
  | .textValue => (enterHex .textValue s, .none)
  | .textChecksum => (enterHex .textChecksum s, .none)
  | .hex => hexOutcome (s.rxc, .codingError) s

/-- Row LF (R184, R185, R188, R190, R193, R142). -/
def mapLf (s : State) : State × FdResult :=
  match s.fs with
  | .idle => (if s.cfg.textEnabled then startText s else s, .none)
  | .textName => (nameByte chLf s, .none)
  | .textValue => (endRecord s, .none)
  | .textChecksum => checksumByte chLf s
  | .hex => hexOutcome (s.rxc, codecEnd s.rxc) s

/-- Row TAB (R185, R186, R192, R193, R146). -/
def mapTab (s : State) : State × FdResult :=
  match s.fs with
  | .idle => (s, .none)
  | .textName => (endName s, .none)
  | .textValue => (valueByte chTab s, .none)
  | .textChecksum => checksumByte chTab s
  | .hex => hexOutcome (s.rxc, .codingError) s

/-- Row CR (R185, R188, R189, R193, R146). -/
def mapCr (s : State) : State × FdResult :=
  match s.fs with
  | .idle => (s, .none)
  | .textName => (nameByte chCr s, .none)
  | .textValue => (valueCr s, .none)
  | .textChecksum => checksumByte chCr s
  | .hex => hexOutcome (s.rxc, .codingError) s

/-- Row NUL (R185, R188, R192, R193, R143). -/
def mapNul (s : State) : State × FdResult :=
  match s.fs with
  | .idle => (s, .none)
  | .textName => (nameByte chNul s, .none)
  | .textValue => (valueByte chNul s, .none)
  | .textChecksum => checksumByte chNul s
  | .hex => hexOutcome (s.rxc, codecNul s.rxc) s

/-- Row HEXDIGIT (R185, R188, R192, R193, R144, R145). -/
def mapHexdigit (b : Byte) (s : State) : State × FdResult :=
  match s.fs with
  | .idle => (s, .none)
  | .textName => (nameByte b s, .none)
  | .textValue => (valueByte b s, .none)
  | .textChecksum => checksumByte b s
  | .hex => hexOutcome (codecDigit s.cfg.hexRawCap s.cfg.hexLowerOk b s.rxc) s

/-- Row OTHER (R185, R188, R192, R193, R146). -/
def mapOther (b : Byte) (s : State) : State × FdResult :=
  match s.fs with
  | .idle => (s, .none)
  | .textName => (nameByte b s, .none)
  | .textValue => (valueByte b s, .none)
  | .textChecksum => checksumByte b s
  | .hex => hexOutcome (s.rxc, .codingError) s

/-- The lowercase digits: HEXDIGIT when `HEX_LOWER_OK`, otherwise "those bytes fall to OTHER" (R100, R102). -/
def mapHexdigitLower (b : Byte) (s : State) : State × FdResult :=
  if s.cfg.hexLowerOk then mapHexdigit b s else mapOther b s

/-- RX_COLON. -/
def execRxColon (now : Time) (s : State) : Host.Outcome State Fault Refusal :=
  .next (timed now (deliver now mapColon) s)

/-- RX_LF. -/
def execRxLf (now : Time) (s : State) : Host.Outcome State Fault Refusal :=
  .next (timed now (deliver now mapLf) s)

/-- RX_TAB. -/
def execRxTab (now : Time) (s : State) : Host.Outcome State Fault Refusal :=
  .next (timed now (deliver now mapTab) s)

/-- RX_CR. -/
def execRxCr (now : Time) (s : State) : Host.Outcome State Fault Refusal :=
  .next (timed now (deliver now mapCr) s)

/-- RX_NUL. -/
def execRxNul (now : Time) (s : State) : Host.Outcome State Fault Refusal :=
  .next (timed now (deliver now mapNul) s)

/-- RX_HEXDIGIT. -/
def execRxHexdigit (b : Byte) (now : Time) (s : State) : Host.Outcome State Fault Refusal :=
  .next (timed now (deliver now (mapHexdigit b)) s)

/-- RX_HEXDIGIT_LOWER. -/
def execRxHexdigitLower (b : Byte) (now : Time) (s : State) : Host.Outcome State Fault Refusal :=
  .next (timed now (deliver now (mapHexdigitLower b)) s)

/-- RX_OTHER. -/
def execRxOther (b : Byte) (now : Time) (s : State) : Host.Outcome State Fault Refusal :=
  .next (timed now (deliver now (mapOther b)) s)

end Sys2Proof.Machine
end

