-- ==== Sys2Proof/Machine/TxQueue.lean ====
section
/-! DEFINITION. `REQUEST` (42_tx_queue.md R241) and the hex_request rows of the opcode table, each `REQUEST` with its command
code (30_encoding.md R107, R123; log 12). -/

namespace Sys2Proof.Machine

/-- The accepted part of `REQUEST`: enqueue, and return whether it was queued (R241, R243). -/
def requestBody (cmd : Byte) (reg : Option RegId) (payload : List Byte) (tag : Tag) (now : Time) (s : State) : State :=
  let r := enqueue { raw := requestRaw cmd reg payload, cmd := cmd, reg := reg, tag := tag } now s
  giveBack (some r.2) r.1

/-- `REQUEST cmd reg payload tag @now`: refused with tag INTERNAL (R316) or longer than `REQ_RAW_CAP` (R242). -/
def request (cmd : Byte) (reg : Option RegId) (payload : List Byte) (tag : Tag) (now : Time) (s : State) : State :=
  if tag = .internal ∨ s.cfg.reqRawCap < (requestRaw cmd reg payload).length then refuse s
  else timed now (requestBody cmd reg payload tag now) s

/-- `REQUEST` (R241). -/
def execRequest (cmd : Byte) (reg : Option RegId) (payload : List Byte) (tag : Tag) (now : Time) (s : State) :
    Host.Outcome State Fault Refusal :=
  .next (request cmd reg payload tag now s)

/-- Ping. -/
def execReqPing (reg : Option RegId) (payload : List Byte) (tag : Tag) (now : Time) (s : State) :
    Host.Outcome State Fault Refusal :=
  .next (request 0x01 reg payload tag now s)

/-- AppVersion. -/
def execReqAppVersion (reg : Option RegId) (payload : List Byte) (tag : Tag) (now : Time) (s : State) :
    Host.Outcome State Fault Refusal :=
  .next (request 0x03 reg payload tag now s)

/-- ProductId. -/
def execReqProductId (reg : Option RegId) (payload : List Byte) (tag : Tag) (now : Time) (s : State) :
    Host.Outcome State Fault Refusal :=
  .next (request 0x04 reg payload tag now s)

/-- Restart. -/
def execReqRestart (reg : Option RegId) (payload : List Byte) (tag : Tag) (now : Time) (s : State) :
    Host.Outcome State Fault Refusal :=
  .next (request 0x06 reg payload tag now s)

/-- Get. -/
def execReqGet (reg : Option RegId) (payload : List Byte) (tag : Tag) (now : Time) (s : State) :
    Host.Outcome State Fault Refusal :=
  .next (request 0x07 reg payload tag now s)

/-- Set. -/
def execReqSet (reg : Option RegId) (payload : List Byte) (tag : Tag) (now : Time) (s : State) :
    Host.Outcome State Fault Refusal :=
  .next (request 0x08 reg payload tag now s)

end Sys2Proof.Machine
end

