-- ==== Sys2Proof/Machine/Dispatch.lean ====
section
/-! DEFINITION. One arm per operation of the opcode table. -/

namespace Sys2Proof.Machine

def exec (i : Instr) (s : State) : Host.Outcome State Fault Refusal :=
  match i with
  | .rxByte b now => Sys2Proof.Machine.execRxByte b now s
  | .tick now => Sys2Proof.Machine.execTick now s
  | .request cmd reg payload tag now => Sys2Proof.Machine.execRequest cmd reg payload tag now s
  | .codecEncode raw => Sys2Proof.Machine.execCodecEncode raw s
  | .codecReencode chars => Sys2Proof.Machine.execCodecReencode chars s
  | .isConnected => Sys2Proof.Machine.execIsConnected s
  | .reset => Sys2Proof.Machine.execReset s
  | .reservedOp => Sys2Proof.Machine.execReservedOp s
  | .rxColon now => Sys2Proof.Machine.execRxColon now s
  | .rxLf now => Sys2Proof.Machine.execRxLf now s
  | .rxTab now => Sys2Proof.Machine.execRxTab now s
  | .rxCr now => Sys2Proof.Machine.execRxCr now s
  | .rxNul now => Sys2Proof.Machine.execRxNul now s
  | .rxHexdigit b now => Sys2Proof.Machine.execRxHexdigit b now s
  | .rxHexdigitLower b now => Sys2Proof.Machine.execRxHexdigitLower b now s
  | .rxOther b now => Sys2Proof.Machine.execRxOther b now s
  | .reqPing reg payload tag now => Sys2Proof.Machine.execReqPing reg payload tag now s
  | .reqAppVersion reg payload tag now => Sys2Proof.Machine.execReqAppVersion reg payload tag now s
  | .reqProductId reg payload tag now => Sys2Proof.Machine.execReqProductId reg payload tag now s
  | .reqRestart reg payload tag now => Sys2Proof.Machine.execReqRestart reg payload tag now s
  | .reqGet reg payload tag now => Sys2Proof.Machine.execReqGet reg payload tag now s
  | .reqSet reg payload tag now => Sys2Proof.Machine.execReqSet reg payload tag now s
  | .repDone rest now => Sys2Proof.Machine.execRepDone rest now s
  | .repUnknown rest now => Sys2Proof.Machine.execRepUnknown rest now s
  | .repError rest now => Sys2Proof.Machine.execRepError rest now s
  | .repPingResp rest now => Sys2Proof.Machine.execRepPingResp rest now s
  | .repGet rest now => Sys2Proof.Machine.execRepGet rest now s
  | .repSet rest now => Sys2Proof.Machine.execRepSet rest now s
  | .repAsync rest now => Sys2Proof.Machine.execRepAsync rest now s
  | .repUnrecognised code rest now => Sys2Proof.Machine.execRepUnrecognised code rest now s

end Sys2Proof.Machine
end

