-- ==== Sys2Proof/Machine/Step.lean ====
section
/-! DEFINITION. One step: take the next operation from the host's input and perform it.  With no input the block "simply waits
for its next operation" (20_memory.md R82) and the state stays as it is. -/

namespace Sys2Proof.Machine

/-- One step of the machine. -/
def step (s : State) : Host.Outcome State Fault Refusal :=
  if s.cfg.wf then
    if s.inq = [] then .next s
    else
      match fetch s with
      | .ok (i, rest) => exec i { s with inq := rest }
      | .error e => .refused (.undecodable e)
  else .refused .badConfig

/-- `s` with a table word's operation presented next (log 1). -/
def State.withFetchWord (s : State) (nbits w : Nat) : State := { s with inq := tableBytes nbits w }

end Sys2Proof.Machine
end

