-- ==== Sys2Proof/Safety.lean ====
section
/-! DEFINITION. What counts as a sound state: the invariants of 10_state.md R52 and the facts of R31 to R45 they rest on, as
one predicate every operation keeps, and the exactness of the running timers (70_reset_and_hazards.md R346).  The spec derives R52 itself; clauses it does not write down are marked MODEL. -/

namespace Sys2Proof.Machine

/-- The current TEXT state: `FS`, or `FS_BACKUP` while in `HEX` (R52 (d)). -/
def State.textState (s : State) : BackupState :=
  match s.fs with
  | .idle => .idle
  | .hex => s.fsBackup
  | .textName => .textName
  | .textValue => .textValue
  | .textChecksum => .textChecksum

/-- A ring slot: at least a command byte, `cmd` equal to `raw[0]`, and a host's request no longer than `REQ_RAW_CAP`
(R39, R242; the block's own requests are not measured, log 16). -/
def Slot.sound (c : Config) (r : Slot) : Prop :=
  r.raw.head? = some r.cmd ∧ (r.tag ≠ .internal → r.raw.length ≤ c.reqRawCap)

/-- Each running timer was below 2^31 at the last accepted `now`, so that `elapsed` is true elapsed time at the next one (R346;
MODEL: what log 7's refusals leave). -/
def State.TimersExact (s : State) : Prop :=
  (s.q ≠ [] → ∃ p, s.lastNow = some p ∧ (p - s.qTxTime).toNat < 2 ^ 31) ∧
  (s.connected = true → ∃ p, s.lastNow = some p ∧ (p - s.lastRx).toNat < 2 ^ 31)

/-- The invariants. -/
structure State.Inv (s : State) : Prop where
  /-- R52 (a). -/
  backupIdle : s.fs ≠ .hex → s.fsBackup = .idle
  /-- R52 (b). -/
  rxcBound : s.rxc.raw.length ≤ s.cfg.hexRawCap
  nameBound : s.txtName.length ≤ s.cfg.textNameMax
  valueBound : s.txtValue.length ≤ s.cfg.textValueMax
  recBound : s.txtRec.length ≤ s.cfg.textRecordsMax
  queueBound : s.q.length ≤ s.cfg.queueCap
  /-- R52 (c), in the form the steps keep: also while a HEX frame entered from `IDLE` is being received, and
  with `TXT_SUM` at its reset value (MODEL). -/
  idleEmpty : s.textState = .idle → s.txtName = [] ∧ s.txtValue = [] ∧ s.txtRec = [] ∧ s.txtSum = 0
  /-- R52 (c), with the other codec registers at their reset values too (MODEL). -/
  codecEmpty : s.fs ≠ .hex → s.rxc = Codec.init
  /-- R52 (d); also in `TEXT_CHECKSUM` (MODEL). -/
  valueEmpty : s.textState ≠ .textValue → s.txtValue = []
  /-- R52 (f). -/
  cursorBound : s.sweepCursor ≤ s.cfg.pollKeys.length
  /-- R31: with TEXT disabled only `IDLE` and `HEX`. -/
  textDisabled : s.cfg.textEnabled = false → s.textState = .idle
  /-- R40. -/
  headBound : s.qHead < s.cfg.queueCap
  /-- R39. -/
  slotsSound : ∀ r ∈ s.q, r.sound s.cfg
  /-- R33: the running sum is the seed less every completed byte (MODEL: the spec's rules give it, no rule says it). -/
  codecSum : s.rxc.sum = checksum s.rxc.raw
  /-- Every stored record is within its bounds (R37). -/
  recsBound : ∀ r ∈ s.txtRec, r.name.length ≤ s.cfg.textNameMax ∧ r.value.length ≤ s.cfg.textValueMax
  /-- `TEXT_CHECKSUM` is entered by the name `"Checksum"` only (R186; MODEL). -/
  checksumName : s.textState = .textChecksum → s.txtName = checksumName

end Sys2Proof.Machine
end

