-- ==== Sys2Proof/Certificates/Slice0/Obligations.lean ====
section
/-! DEFINITION. The statements for the provers, and the vocabulary they are written in.  A statement that rests on a decision of
92_eei_decisions.md (D<n>), on an inference the spec marks `[derived: ...]`, or on a log entry of the model says so in its docstring. -/

namespace Sys2Proof.Claims

open Sys2Proof.Machine

/-! ## Vocabulary -/

/-- Time units from the last accepted `now` to this one, 0 for the first one (log 7). -/
def passed (now : Time) (s : State) : Nat := s.lastNow.elim 0 (fun p => (now - p).toNat)

/-- `now` breaks R346 (how the model detects it is log 7): it is 2^31 or more after the last one, mod 2^32, or it finds a running
timer, the request's in flight or the link's while connected, at 2^31 or more. -/
def BadNow (now : Time) (s : State) : Prop :=
  2 ^ 31 ≤ passed now s ∨ (s.q ≠ [] ∧ 2 ^ 31 ≤ (now - s.qTxTime).toNat) ∨
  (s.connected = true ∧ 2 ^ 31 ≤ (now - s.lastRx).toNat)

/-- The state an accepted `RX_BYTE @now` hands to the decoder: `LAST_RX <- now` (R180), with the model's own fields noted
(logs 6, 7). -/
def heard (now : Time) (s : State) : State := { stamp now s with lastRx := now, ret := none }

/-- The operations that deliver the byte `b` at `now`: `RX_BYTE`, and the class row the byte belongs to (R100). -/
inductive Presents (b : Byte) (now : Time) : Instr → Prop where
  | rxByte : Presents b now (.rxByte b now)
  | rxColon : b = 0x3A → Presents b now (.rxColon now)
  | rxLf : b = 0x0A → Presents b now (.rxLf now)
  | rxTab : b = 0x09 → Presents b now (.rxTab now)
  | rxCr : b = 0x0D → Presents b now (.rxCr now)
  | rxNul : b = 0x00 → Presents b now (.rxNul now)
  | rxHexdigit : isHexdigitByte b = true → Presents b now (.rxHexdigit b now)
  | rxHexdigitLower : isHexdigitLowerByte b = true → Presents b now (.rxHexdigitLower b now)
  | rxOther : isOtherByte b = true → Presents b now (.rxOther b now)

/-- The operations that make a request: `REQUEST`, and the hex_request row of its command code (R107). -/
inductive Asks (cmd : Byte) (reg : Option RegId) (payload : List Byte) (tag : Tag) (now : Time) : Instr → Prop where
  | request : Asks cmd reg payload tag now (.request cmd reg payload tag now)
  | ping : cmd = 0x01 → Asks cmd reg payload tag now (.reqPing reg payload tag now)
  | appVersion : cmd = 0x03 → Asks cmd reg payload tag now (.reqAppVersion reg payload tag now)
  | productId : cmd = 0x04 → Asks cmd reg payload tag now (.reqProductId reg payload tag now)
  | restart : cmd = 0x06 → Asks cmd reg payload tag now (.reqRestart reg payload tag now)
  | get : cmd = 0x07 → Asks cmd reg payload tag now (.reqGet reg payload tag now)
  | set : cmd = 0x08 → Asks cmd reg payload tag now (.reqSet reg payload tag now)

/-- The hex_reply rows: a received frame `code :: rest` (R107). -/
inductive Replies (code : Byte) (rest : List Byte) (now : Time) : Instr → Prop where
  | done : code = 0x01 → Replies code rest now (.repDone rest now)
  | unknown : code = 0x03 → Replies code rest now (.repUnknown rest now)
  | error : code = 0x04 → Replies code rest now (.repError rest now)
  | pingResp : code = 0x05 → Replies code rest now (.repPingResp rest now)
  | get : code = 0x07 → Replies code rest now (.repGet rest now)
  | set : code = 0x08 → Replies code rest now (.repSet rest now)
  | async : code = 0x0A → Replies code rest now (.repAsync rest now)
  | unrecognised : isUnrecognisedCode code = true → Replies code rest now (.repUnrecognised code rest now)

/-- Perform operations one after another. -/
def perform : List Instr → State → Host.Outcome State Fault Refusal
  | [], s => .next s
  | i :: is, s =>
    match exec i s with
    | .next t => perform is t
    | .fault f => .fault f
    | .refused r => .refused r

/-- `FEED bytes @now` (R123) as operations. -/
def feedOps (now : Time) (bytes : List Byte) : List Instr := bytes.map (fun b => .rxByte b now)

/-- The result of feeding characters to a codec until one ends it; `continue` when none does. -/
def codecFeed (cap : Nat) (lowerOk : Bool) : List Byte → Codec → DecodeResult
  | [], _ => .continue
  | c :: cs, k =>
    match decodeStep cap lowerOk c k with
    | (k', .continue) => codecFeed cap lowerOk cs k'
    | (_, r) => r

/-- The bytes that digit values spell, high nibble first; an odd last digit spells none. -/
def spell : List Nibble → List Byte
  | hi :: lo :: vs => byteOf hi lo :: spell vs
  | _ => []

/-- The characters `ds` are hex digits of values `vs`. -/
def AreDigits (lowerOk : Bool) (ds : List Byte) (vs : List Nibble) : Prop := ds.map (hexval lowerOk) = vs.map some

/-- `CODEC_REENCODE chars` appends the event `e` and writes nothing else (`ret` is log 6). -/
def Reencodes (s : State) (chars : List Byte) (e : Event) : Prop :=
  exec (.codecReencode chars) s = .next { s with ret := none, ev := s.ev ++ [e] }

/-- A valid frame `raw` has been received and the interrupted frame resumed, before reply matching (R195). -/
def received (now : Time) (raw : List Byte) (s : State) : State :=
  { heard now s with
    fs := s.fsBackup.toFrame, fsBackup := .idle, rxc := Codec.init, ev := s.ev ++ [.hexFrame raw] }

/-- The same after a whole frame fed outside `HEX`: the frame state is as before it. -/
def framed (now : Time) (raw : List Byte) (s : State) : State :=
  { heard now s with fsBackup := .idle, rxc := Codec.init, ev := s.ev ++ [.hexFrame raw] }

/-- The decoder part of the state (R53: `FS`, `FS_BACKUP`, `RXC_*`, `TXT_*`) is as at reset. -/
def DecoderAtReset (s : State) : Prop :=
  s.fs = .idle ∧ s.fsBackup = .idle ∧ s.rxc = { raw := [], phase := .aligned, hi := 0, sum := 0x55 } ∧
  s.txtName = [] ∧ s.txtValue = [] ∧ s.txtRec = [] ∧ s.txtSum = 0

/-- The state after a TEXT bound error: the error's event, the TEXT buffers cleared, `IDLE` (R182, R187). -/
def textAborted (now : Time) (code : ErrorCode) (s : State) : State :=
  { heard now s with
    fs := .idle, txtName := [], txtValue := [], txtRec := [], txtSum := 0
    ev := s.ev ++ [.decodeError code .text] }

/-- The state after a HEX coding or overflow error: the error's event and the whole decoder reset (R182, R197, R198). -/
def hexAborted (now : Time) (code : ErrorCode) (s : State) : State :=
  { heard now s with
    fs := .idle, fsBackup := .idle, rxc := { raw := [], phase := .aligned, hi := 0, sum := 0x55 }
    txtName := [], txtValue := [], txtRec := [], txtSum := 0
    ev := s.ev ++ [.decodeError code .hex] }

/-- The two TEXT-free parts of the state a request may not touch: decoder, link and sweep. -/
def SameDecoder (s t : State) : Prop :=
  t.fs = s.fs ∧ t.fsBackup = s.fsBackup ∧ t.rxc = s.rxc ∧ t.txtName = s.txtName ∧ t.txtValue = s.txtValue ∧
  t.txtRec = s.txtRec ∧ t.txtSum = s.txtSum

/-- The TEXT frame being assembled is the same. -/
def SameText (s t : State) : Prop :=
  t.fs = s.fs ∧ t.txtName = s.txtName ∧ t.txtValue = s.txtValue ∧ t.txtRec = s.txtRec ∧ t.txtSum = s.txtSum

/-- The transmit-queue elements are the same. -/
def SameQueue (s t : State) : Prop :=
  t.q = s.q ∧ t.qHead = s.qHead ∧ t.qTxTime = s.qTxTime ∧ t.connected = s.connected ∧
  t.sweepActive = s.sweepActive ∧ t.sweepCursor = s.sweepCursor

def Event.isDecodeError : Event → Bool
  | .decodeError _ _ => true
  | _ => false

/-- The tags of the resolutions of requests that had entered the ring, in order (R302: all but QUEUE_FULL). -/
def completions (es : List Event) : List Tag :=
  es.filterMap fun e =>
    match e with
    | .resolved tag st _ => if st = .queueFull then none else some tag
    | _ => none

/-- A record's bytes, with or without a CR before its LF (R110). -/
def recordBytes (r : TextRecord × Bool) : List Byte :=
  r.1.name ++ [chTab] ++ r.1.value ++ (if r.2 then [chCr] else []) ++ [chLf]

/-- The bytes of a TEXT frame of records `recs` and checksum byte `x` (R110). -/
def textBytes (recs : List (TextRecord × Bool)) (x : Byte) : List Byte :=
  [chLf] ++ recs.flatMap recordBytes ++ checksumName ++ [chTab] ++ [x]

/-- A record the decoder accepts (R111): a name without `':'` and TAB that is not `"Checksum"`, a value without `':'`, CR and
LF, both within their bounds. -/
def Admissible (c : Config) (r : TextRecord) : Prop :=
  (∀ b ∈ r.name, b ≠ chColon ∧ b ≠ chTab) ∧ r.name.length ≤ c.textNameMax ∧ r.name ≠ checksumName ∧
  (∀ b ∈ r.value, b ≠ chColon ∧ b ≠ chCr ∧ b ≠ chLf) ∧ r.value.length ≤ c.textValueMax

end Sys2Proof.Claims

open Sys2Proof Sys2Proof.Machine Sys2Proof.Claims

/-! ## Encoding -/

/-- Decoding an encoded well-formed operation gives it back, whatever follows it (the image is the model's: logs 1, 2). -/
def Obligations.DecodeEncodeRoundTrip : Prop :=
  ∀ (i : Instr) (rest : List Byte), i.wf = true → decode (encode i ++ rest) = .ok (i, rest)

/-- Bytes that decode are the encoding of what they decode to, and what they decode to is well-formed: no two words mean one
operation (logs 1, 2). -/
def Obligations.EncodeDecodeRoundTrip : Prop :=
  ∀ (bs : List Byte) (i : Instr) (rest : List Byte), decode bs = .ok (i, rest) → i.wf = true ∧ bs = encode i ++ rest

/-- Words written from the spec's tables: selectors of R121, byte classes of R100, codes of R107 (operand layout: logs 1, 2). -/
def Obligations.SpecWordsDecode : Prop :=
  decode [0x00, 0, 0x3A, 7, 0, 0, 0] = .ok (.rxByte 0x3A 7, []) ∧
  decode [0x01, 0xE8, 0x03, 0, 0] = .ok (.tick 1000, []) ∧
  decode [0x02, 0, 0x07, 1, 0x01, 0x22, 0, 0, 0, 9, 0, 0, 0, 0, 0, 0, 0]
    = .ok (.request 0x07 (some 0x2201) [] (.host 9) 0, []) ∧
  decode [0x05] = .ok (.isConnected, []) ∧ decode [0x06] = .ok (.reset, []) ∧ decode [0x07] = .ok (.reservedOp, []) ∧
  decode [0x0A, 7, 0, 0, 0] = .ok (.rxLf 7, []) ∧
  decode [0x00, 2, 0x05, 2, 0, 0x01, 0x41, 150, 0, 0, 0] = .ok (.repPingResp [0x01, 0x41] 150, [])

/-- "The decoder classifies every input byte into exactly one class" (R100): at most one match/mask row of the table hits a
byte, and the row's class is the one whose byte values R100 and R102 list. -/
def Obligations.ByteClassesPartition : Prop :=
  (∀ b : Byte, (rxRows.filter (Row.hits b)).length ≤ 1) ∧
  (∀ b : Byte, rxClass b =
    if b = 0x3A then .colon else if b = 0x0A then .lf else if b = 0x09 then .tab else if b = 0x0D then .cr
    else if b = 0x00 then .nul else if isHexdigitByte b then .hexdigit
    else if isHexdigitLowerByte b then .hexdigitLower else .other)

/-- R107: every value of raw[0] has exactly one reply row, and the row's class is the one reply matching uses (R248). -/
def Obligations.ReplyCodesPartition : Prop :=
  (∀ c : Byte, (repRows.filter (Row.hits c)).length = 1) ∧
  (∀ (c : Byte) (rest : List Byte), replyClass (c :: rest) =
    if c = 0x01 then .done else if c = 0x03 ∨ c = 0x04 then .remoteCode else if c = 0x05 then .pingResp
    else if c = 0x07 ∨ c = 0x08 then .register else if c = 0x0A then .async else .unrecognised) ∧
  (∀ c : Byte, rowOf repRows c = some .unrecognised ↔ isUnrecognisedCode c = true) ∧
  replyClass [] = .unrecognised

/-! ## The step -/

/-- A step performs the operation the host's bytes decode to, on the state without those bytes (log 1). -/
def Obligations.StepRunsDecodedInstruction : Prop :=
  ∀ (s : State) (i : Instr) (rest : List Byte), s.cfg.wf = true → i.wf = true → s.inq = encode i ++ rest →
    step s = exec i { s with inq := rest }

/-- With nothing presented the block waits (20_memory.md section 4, 70_reset_and_hazards.md section 1); a configuration R344
excludes, or bytes that are no operation, make no step (logs 1, 4). -/
def Obligations.StepWaitsOrMakesNoStep : Prop :=
  (∀ s : State, s.cfg.wf = true → s.inq = [] → step s = .next s) ∧
  (∀ s : State, s.cfg.wf = false → step s = .refused .badConfig) ∧
  (∀ (s : State) (e : DecodeError), s.cfg.wf = true → s.inq ≠ [] → decode s.inq = .error e →
    step s = .refused (.undecodable e))

/-- Nothing traps or halts: every operation in every state answers a next state (60_exceptions.md section 1). -/
def Obligations.EveryOperationCompletes : Prop :=
  ∀ (i : Instr) (s : State), ∃ t : State, exec i s = .next t

/-- No operation but RESET removes or reorders an event; RESET starts an empty trace (10_state.md section 5, D2). -/
def Obligations.TraceAppendOnly : Prop :=
  ∀ (i : Instr) (s t : State), exec i s = .next t →
    (i ≠ .reset → ∃ es : List Event, t.ev = s.ev ++ es) ∧ (i = .reset → t.ev = [])

/-- Every step keeps the invariants of 10_state.md section 3 (R52, which the spec derives; Safety.lean marks the clauses that
are the model's), and keeps the running timers exact (R346; the refusals that see to it are log 7, the model's). -/
def Obligations.StepPreservesInv : Prop :=
  (∀ (s t : State), s.Inv → step s = .next t → t.Inv) ∧
  (∀ (s t : State), s.TimersExact → step s = .next t → t.TimersExact)

/-- The reset state of every admitted configuration meets the invariants, the reference configuration's among them (log 3). -/
def Obligations.ResetMeetsInv : Prop :=
  (∀ c : Config, c.wf = true → (State.resetOf c).Inv ∧ (State.resetOf c).TimersExact) ∧
  State.reset.Inv ∧ State.reset.TimersExact

/-! ## HexCodec -/

/-- R149: `cs = (0x55 - (raw[0] + ... + raw[n-1])) mod 256`. -/
def Obligations.ChecksumIsSeededDifference : Prop :=
  ∀ raw : List Byte, checksum raw = 0x55 - raw.sum

/-- R104: `':'`, two uppercase digits per raw byte with the high nibble first, two digits of the checksum, LF; length 2n + 4. -/
def Obligations.EncodedFrameLayout : Prop :=
  ∀ raw : List Byte,
    (encodeFrame raw).length = 2 * raw.length + 4 ∧
    (encodeFrame raw)[0]? = some 0x3A ∧
    (∀ (i : Nat) (b : Byte), raw[i]? = some b →
      (encodeFrame raw)[1 + 2 * i]? = some (hexdig (b.extractLsb' 4 4)) ∧
      (encodeFrame raw)[2 + 2 * i]? = some (hexdig (b.extractLsb' 0 4))) ∧
    (encodeFrame raw)[1 + 2 * raw.length]? = some (hexdig ((checksum raw).extractLsb' 4 4)) ∧
    (encodeFrame raw)[2 + 2 * raw.length]? = some (hexdig ((checksum raw).extractLsb' 0 4)) ∧
    (encodeFrame raw)[3 + 2 * raw.length]? = some 0x0A

/-- R142: alignment first, then the sum; a valid frame loses its checksum byte; the codec is unchanged. -/
def Obligations.DecodeStepOnLf : Prop :=
  ∀ (cap : Nat) (lowerOk : Bool) (cs : Codec),
    decodeStep cap lowerOk 0x0A cs =
      (cs, if cs.phase = .half then .codingError
           else if cs.sum ≠ 0 then .checksumError
           else .valid (cs.raw.take (cs.raw.length - 1)))

/-- R143 and R146: NUL while aligned ends the string with nothing popped; every other character that is no hex digit, and NUL
between two digits, is a coding error; the codec is unchanged. -/
def Obligations.DecodeStepOnNonDigit : Prop :=
  ∀ (cap : Nat) (lowerOk : Bool) (c : Byte) (cs : Codec), c ≠ 0x0A → hexval lowerOk c = none →
    decodeStep cap lowerOk c cs =
      (cs, if c = 0x00 ∧ cs.phase = .aligned then .terminated cs.raw else .codingError)

/-- R144, R145 (high nibble first is D4, the capacity test on the second digit D6): the first digit is latched; the second
completes a byte, which overflows a full buffer and is otherwise stored and subtracted from the sum. -/
def Obligations.DecodeStepOnDigit : Prop :=
  ∀ (cap : Nat) (lowerOk : Bool) (c : Byte) (v : Nibble) (cs : Codec), hexval lowerOk c = some v →
    (cs.phase = .aligned → decodeStep cap lowerOk c cs = ({ cs with hi := v, phase := .half }, .continue)) ∧
    (cs.phase = .half → cs.raw.length = cap → decodeStep cap lowerOk c cs = (cs, .overflow)) ∧
    (cs.phase = .half → cs.raw.length ≠ cap → decodeStep cap lowerOk c cs =
      ({ raw := cs.raw ++ [BitVec.ofNat 8 (cs.hi.toNat * 16 + v.toNat)]
         phase := .aligned, hi := cs.hi
         sum := cs.sum - BitVec.ofNat 8 (cs.hi.toNat * 16 + v.toNat) }, .continue))

/-- The round-trip law R151, with lowercase digits accepted or not (R155); the spec derives both. -/
def Obligations.CodecRoundTrip : Prop :=
  ∀ (cap : Nat) (lowerOk : Bool) (raw : List Byte), raw.length + 1 ≤ cap →
    codecFeed cap lowerOk (raw.flatMap digits ++ digits (checksum raw)) Codec.init = .continue ∧
    codecFeed cap lowerOk ((encodeFrame raw).tail) Codec.init = .valid raw

/-- The validity law R147, which the spec derives: an odd digit count is a coding error, a byte sum of 0x55 is valid, any other
a checksum error, and byte `cap + 1` overflows exactly when it completes. -/
def Obligations.CodecValidityLaw : Prop :=
  ∀ (cap : Nat) (lowerOk : Bool) (ds : List Byte) (vs : List Nibble), AreDigits lowerOk ds vs →
    (ds.length % 2 = 1 → ds.length / 2 ≤ cap → codecFeed cap lowerOk (ds ++ [0x0A]) Codec.init = .codingError) ∧
    (ds.length % 2 = 0 → ds.length / 2 ≤ cap → codecFeed cap lowerOk (ds ++ [0x0A]) Codec.init =
      if (spell vs).sum = 0x55 then .valid (spell vs).dropLast else .checksumError) ∧
    (cap < ds.length / 2 →
      codecFeed cap lowerOk (ds.take (2 * cap + 1)) Codec.init = .continue ∧
      codecFeed cap lowerOk (ds.take (2 * cap + 2)) Codec.init = .overflow)

/-- `CODEC_ENCODE` (40_hex_codec.md section 4; the verdicts on empty and oversize frames are D35): one event, no other state. -/
def Obligations.CodecEncodeOutcome : Prop :=
  ∀ (raw : List Byte) (s : State),
    exec (.codecEncode raw) s = .next { s with
      ret := none
      ev := s.ev ++ [if raw.length = 0 then .codecError .coding
                     else if s.cfg.reqRawCap < raw.length then .codecError .overflow
                     else .encoded (encodeFrame raw)] }

/-- `CODEC_REENCODE` (40_hex_codec.md section 4, R153; D34, D35) appends exactly one event, an encoded frame no longer than the
request bound or a codec error, and writes no other state.  Which event: an input longer than `ENC_CAP` is `OVERFLOW`; otherwise,
after a leading `':'`, the digits up to the first other character decide.  More than `REQ_RAW_CAP + 1` whole bytes is `OVERFLOW`; an
odd digit count with any or no character after it, an even one with nothing after it, and a character that is neither LF nor NUL is
`CODING`; LF ends a frame that is `CHECKSUM` unless its bytes sum to 0x55 and loses its last byte; NUL ends one that keeps them all;
an ended frame of no byte is `CODING`, one longer than `REQ_RAW_CAP` is `OVERFLOW`, any other is encoded. -/
def Obligations.CodecReencodeOutcome : Prop :=
  ∀ (chars : List Byte) (s : State),
    (∃ e : Event, Reencodes s chars e ∧
      ((∃ c, e = .codecError c ∧ (c = .checksum ∨ c = .coding ∨ c = .overflow)) ∨
        (∃ raw, e = .encoded (encodeFrame raw) ∧ 1 ≤ raw.length ∧ raw.length ≤ s.cfg.reqRawCap))) ∧
    (s.cfg.encCap < chars.length → Reencodes s chars (.codecError .overflow)) ∧
    (∀ (lead ds after : List Byte) (vs : List Nibble), chars.length ≤ s.cfg.encCap → (lead = [] ∨ lead = [0x3A]) →
      AreDigits s.cfg.hexLowerOk ds vs →
      (chars = lead ++ ds ++ after → s.cfg.reqRawCap + 1 < ds.length / 2 → Reencodes s chars (.codecError .overflow)) ∧
      (chars = lead ++ ds → ds.length / 2 ≤ s.cfg.reqRawCap + 1 → Reencodes s chars (.codecError .coding)) ∧
      (∀ c : Byte, chars = lead ++ ds ++ [c] ++ after → ds.length / 2 ≤ s.cfg.reqRawCap + 1 →
        hexval s.cfg.hexLowerOk c = none → (lead = [] → ds = [] → c ≠ 0x3A) →
        (ds.length % 2 = 1 → Reencodes s chars (.codecError .coding)) ∧
        (c ≠ 0x0A → c ≠ 0x00 → Reencodes s chars (.codecError .coding)) ∧
        (ds.length % 2 = 0 → c = 0x0A → Reencodes s chars
          (if (spell vs).sum ≠ 0x55 then .codecError .checksum
           else if (spell vs).length ≤ 1 then .codecError .coding
           else .encoded (encodeFrame (spell vs).dropLast))) ∧
        (ds.length % 2 = 0 → c = 0x00 → Reencodes s chars
          (if spell vs = [] then .codecError .coding
           else if s.cfg.reqRawCap < (spell vs).length then .codecError .overflow
           else .encoded (encodeFrame (spell vs))))))

/-- `CODEC_REENCODE` gives an operator's frame its checksum, with or without the leading `':'` and whatever follows the NUL, and
gives a frame that carries a correct one back (40_hex_codec.md section 4, D34). -/
def Obligations.ReencodeAddsChecksum : Prop :=
  ∀ (raw after chars : List Byte) (s : State), 1 ≤ raw.length → raw.length ≤ s.cfg.reqRawCap →
    chars.length ≤ s.cfg.encCap →
    (chars = raw.flatMap digits ++ [0x00] ++ after ∨ chars = [0x3A] ++ raw.flatMap digits ++ [0x00] ++ after ∨
      chars = encodeFrame raw ++ after) →
    exec (.codecReencode chars) s = .next { s with ret := none, ev := s.ev ++ [.encoded (encodeFrame raw)] }

/-! ## FrameDecoder -/

/-- The class rows of the decoding map of R100 do what `RX_BYTE` does by the test order of R101 (30_encoding.md section 1; D5,
D10 to D13). -/
def Obligations.ClassMapAgreesWithPrecedence : Prop :=
  ∀ (b : Byte) (now : Time) (i : Instr) (s : State), Presents b now i → exec i s = exec (.rxByte b now) s

/-- R183: `':'` outside `HEX` saves the frame state, enters `HEX` and initialises the codec; nothing else changes. -/
def Obligations.ColonEntersHex : Prop :=
  ∀ (i : Instr) (now : Time) (s : State) (from' : BackupState), Presents 0x3A now i → s.nowOk now = true →
    s.fs = from'.toFrame →
    exec i s = .next { heard now s with
      fs := .hex, fsBackup := from', rxc := { raw := [], phase := .aligned, hi := 0, sum := 0x55 } }

/-- R184: LF in `IDLE` with TEXT enabled starts a TEXT frame. -/
def Obligations.LfStartsTextFrame : Prop :=
  ∀ (i : Instr) (now : Time) (s : State), Presents 0x0A now i → s.nowOk now = true →
    s.fs = .idle → s.cfg.textEnabled = true →
    exec i s = .next { heard now s with
      fs := .textName, txtSum := 0x0A, txtName := [], txtValue := [], txtRec := [] }

/-- Any other byte in `IDLE`, and LF with TEXT disabled, changes nothing but `LAST_RX` (R185; D10). -/
def Obligations.IdleIgnoresOtherBytes : Prop :=
  ∀ (b : Byte) (i : Instr) (now : Time) (s : State), Presents b now i → s.nowOk now = true → s.fs = .idle →
    b ≠ 0x3A → (b = 0x0A → s.cfg.textEnabled = false) → exec i s = .next (heard now s)

/-- TAB ends a name: `"Checksum"` leads to `TEXT_CHECKSUM`, any other to `TEXT_VALUE` (R186; the exact comparison is D15). -/
def Obligations.TabEndsName : Prop :=
  ∀ (i : Instr) (now : Time) (s : State), Presents 0x09 now i → s.nowOk now = true → s.fs = .textName →
    exec i s = .next (
      if s.txtName = [0x43, 0x68, 0x65, 0x63, 0x6B, 0x73, 0x75, 0x6D] then
        { heard now s with txtSum := s.txtSum + 0x09, fs := .textChecksum }
      else { heard now s with txtSum := s.txtSum + 0x09, txtValue := [], fs := .textValue })

/-- Any other byte in `TEXT_NAME`: the bound first, then the byte is summed and stored (R187, R188; D11, D13). -/
def Obligations.NameByteStoredOrOverflows : Prop :=
  ∀ (b : Byte) (i : Instr) (now : Time) (s : State), Presents b now i → s.nowOk now = true → s.fs = .textName →
    b ≠ 0x3A → b ≠ 0x09 →
    exec i s = .next (
      if s.txtName.length = s.cfg.textNameMax then textAborted now .nameOverflow s
      else { heard now s with txtSum := s.txtSum + b, txtName := s.txtName ++ [b] })

/-- R189: CR in `TEXT_VALUE` is summed and does nothing else. -/
def Obligations.CrInValueSummedOnly : Prop :=
  ∀ (i : Instr) (now : Time) (s : State), Presents 0x0D now i → s.nowOk now = true → s.fs = .textValue →
    exec i s = .next { heard now s with txtSum := s.txtSum + 0x0D }

/-- LF in `TEXT_VALUE` stores the record and starts the next name, or aborts when the array is full (R190; D14). -/
def Obligations.LfEndsRecord : Prop :=
  ∀ (i : Instr) (now : Time) (s : State), Presents 0x0A now i → s.nowOk now = true → s.fs = .textValue →
    exec i s = .next (
      if s.txtRec.length = s.cfg.textRecordsMax then textAborted now .recordOverflow s
      else { heard now s with
        txtSum := s.txtSum + 0x0A, txtRec := s.txtRec ++ [{ name := s.txtName, value := s.txtValue }]
        txtName := [], txtValue := [], fs := .textName })

/-- Any other byte in `TEXT_VALUE`: the bound first, then the byte is summed and stored (R191, R192; D12, D13). -/
def Obligations.ValueByteStoredOrOverflows : Prop :=
  ∀ (b : Byte) (i : Instr) (now : Time) (s : State), Presents b now i → s.nowOk now = true → s.fs = .textValue →
    b ≠ 0x3A → b ≠ 0x0D → b ≠ 0x0A →
    exec i s = .next (
      if s.txtValue.length = s.cfg.textValueMax then textAborted now .valueOverflow s
      else { heard now s with txtSum := s.txtSum + b, txtValue := s.txtValue ++ [b] })

/-- R193: any byte but `':'` in `TEXT_CHECKSUM` ends the frame, which is delivered exactly when the sum is 0; the TEXT buffers
are cleared either way.  A delivered frame then takes part in connection (R180, R258; that order is D21). -/
def Obligations.ChecksumByteEndsTextFrame : Prop :=
  ∀ (b : Byte) (i : Instr) (now : Time) (s : State), Presents b now i → s.nowOk now = true → s.fs = .textChecksum →
    b ≠ 0x3A →
    (s.txtSum + b = 0 → exec i s = .next (maybeConnect now { heard now s with
      fs := .idle, txtName := [], txtValue := [], txtRec := [], txtSum := 0, ev := s.ev ++ [.textFrame s.txtRec] })) ∧
    (s.txtSum + b ≠ 0 → exec i s = .next (textAborted now .checksum s))

/-- In `HEX` a digit that does not end the frame updates the codec and nothing else (R194, with R144 and R145; D4, D6). -/
def Obligations.HexDigitContinues : Prop :=
  ∀ (b : Byte) (v : Nibble) (i : Instr) (now : Time) (s : State), Presents b now i → s.nowOk now = true → s.fs = .hex →
    hexval s.cfg.hexLowerOk b = some v →
    (s.rxc.phase = .aligned → exec i s = .next { heard now s with rxc := { s.rxc with hi := v, phase := .half } }) ∧
    (s.rxc.phase = .half → s.rxc.raw.length ≠ s.cfg.hexRawCap → exec i s = .next { heard now s with
      rxc := { s.rxc with
        raw := s.rxc.raw ++ [byteOf s.rxc.hi v], sum := s.rxc.sum - byteOf s.rxc.hi v, phase := .aligned } })

/-- R195: a valid frame is delivered, the backup state resumed and the codec cleared; then reply matching and connection, in
that order (R180; the order is D21). -/
def Obligations.ValidHexFrameDelivered : Prop :=
  ∀ (i : Instr) (now : Time) (s : State), Presents 0x0A now i → s.nowOk now = true → s.fs = .hex →
    s.rxc.phase = .aligned → s.rxc.sum = 0 →
    exec i s = .next (maybeConnect now (onHexReply s.rxc.raw.dropLast now (received now s.rxc.raw.dropLast s)))

/-- R196: a checksum error is reported and the backup state resumed, the TEXT buffers and the ring untouched. -/
def Obligations.HexChecksumErrorResumes : Prop :=
  ∀ (i : Instr) (now : Time) (s : State), Presents 0x0A now i → s.nowOk now = true → s.fs = .hex →
    s.rxc.phase = .aligned → s.rxc.sum ≠ 0 →
    exec i s = .next { heard now s with
      fs := s.fsBackup.toFrame, fsBackup := .idle, rxc := { raw := [], phase := .aligned, hi := 0, sum := 0x55 }
      ev := s.ev ++ [.decodeError .checksum .hex] }

/-- In `HEX` any character but LF that is no hex digit, a second `':'` and NUL among them, and LF after an odd number of digits,
is `CODING` and resets the decoder (R197, R199; NUL is D7). -/
def Obligations.HexCodingErrorResets : Prop :=
  ∀ (b : Byte) (i : Instr) (now : Time) (s : State), Presents b now i → s.nowOk now = true → s.fs = .hex →
    ((b ≠ 0x0A ∧ hexval s.cfg.hexLowerOk b = none) ∨ (b = 0x0A ∧ s.rxc.phase = .half)) →
    exec i s = .next (hexAborted now .coding s)

/-- R198: the digit that completes byte `HEX_RAW_CAP + 1` is `OVERFLOW` and resets the decoder. -/
def Obligations.HexOverflowResets : Prop :=
  ∀ (b : Byte) (v : Nibble) (i : Instr) (now : Time) (s : State), Presents b now i → s.nowOk now = true → s.fs = .hex →
    hexval s.cfg.hexLowerOk b = some v → s.rxc.phase = .half → s.rxc.raw.length = s.cfg.hexRawCap →
    exec i s = .next (hexAborted now .overflow s)

/-- A HEX frame that decodes `Valid` or `ChecksumError`, inserted anywhere in a TEXT frame, leaves the TEXT frame exactly as it
was (R200, R203, which the spec derives; D9). -/
def Obligations.NestedHexKeepsTextFrame : Prop :=
  ∀ (ds : List Byte) (vs : List Nibble) (now : Time) (s t : State), AreDigits s.cfg.hexLowerOk ds vs →
    ds.length % 2 = 0 → ds.length / 2 ≤ s.cfg.hexRawCap → s.nowOk now = true → s.fs ≠ .hex →
    perform (feedOps now ([0x3A] ++ ds ++ [0x0A])) s = .next t →
    SameText s t ∧ t.fsBackup = .idle ∧ t.rxc = Codec.init ∧
    ∃ more : List Event, t.ev = s.ev ++
      (if (spell vs).sum = 0x55 then Event.hexFrame (spell vs).dropLast else .decodeError .checksum .hex) :: more

/-- The TEXT checksum law (R204, with R110 and R111, which the spec derives): a frame of admissible records is delivered, record
by record, exactly when its bytes from the opening LF through the checksum byte sum to 0. -/
def Obligations.TextFrameDeliveredIffSumZero : Prop :=
  ∀ (recs : List (TextRecord × Bool)) (x : Byte) (now : Time) (s : State), s.nowOk now = true → s.fs = .idle →
    s.cfg.textEnabled = true → s.cfg.wf = true → recs.length ≤ s.cfg.textRecordsMax →
    (∀ r ∈ recs, Admissible s.cfg r.1) → x ≠ 0x3A →
    ((textBytes recs x).sum = 0 → perform (feedOps now (textBytes recs x)) s =
      .next (maybeConnect now { heard now s with
        txtName := [], txtValue := [], txtRec := [], txtSum := 0, ev := s.ev ++ [.textFrame (recs.map Prod.fst)] })) ∧
    ((textBytes recs x).sum ≠ 0 → perform (feedOps now (textBytes recs x)) s = .next (textAborted now .checksum s))

/-- One byte raises at most one decode error, and a byte that raises one emits nothing else and leaves the ring, the connection
and the sweep alone (R256, R308, which the spec derives). -/
def Obligations.DecodeErrorStandsAlone : Prop :=
  ∀ (b : Byte) (i : Instr) (now : Time) (s t : State), Presents b now i → exec i s = .next t →
    ∃ es : List Event, t.ev = s.ev ++ es ∧
      ((es.filter Event.isDecodeError).length = 0 ∨ (es.length = 1 ∧ SameQueue s t))

/-- Reset idempotence (R202, which the spec derives): after a decode error the decoder is as at reset, except after a HEX
`CHECKSUM` error with a TEXT backup, which leaves the HEX part reset and the TEXT part as before. -/
def Obligations.DecodeErrorResetsDecoder : Prop :=
  ∀ (b : Byte) (i : Instr) (now : Time) (s t : State) (code : ErrorCode) (path : Path), s.Inv → Presents b now i →
    exec i s = .next t → t.ev = s.ev ++ [.decodeError code path] →
    (¬ (code = .checksum ∧ path = .hex ∧ s.fsBackup ≠ .idle) → DecoderAtReset t) ∧
    (code = .checksum → path = .hex → t.fs = s.fsBackup.toFrame ∧ t.fsBackup = .idle ∧ t.rxc = Codec.init ∧
      t.txtName = s.txtName ∧ t.txtValue = s.txtValue ∧ t.txtRec = s.txtRec ∧ t.txtSum = s.txtSum)

/-- A byte received outside `HEX`, connected or not, resolves no request and takes none out of the ring: TEXT frames only take
part in connection (R257, which the spec derives).  While connected it leaves the ring, the connection and the sweep alone. -/
def Obligations.TextBytesNeverResolve : Prop :=
  ∀ (b : Byte) (i : Instr) (now : Time) (s t : State), Presents b now i → exec i s = .next t → s.fs ≠ .hex →
    (∃ (es : List Event) (added : List Slot), t.ev = s.ev ++ es ∧ completions es = [] ∧ t.q = s.q ++ added ∧ t.qHead = s.qHead) ∧
    (s.connected = true → SameQueue s t)

/-! ## Transmit queue -/

/-- A request is stored behind the ring with the raw frame of R106 (b), and transmitted at once when nothing was in flight
(R241, R243, R245; the flags byte 0x00 is D18, one Tx per frame D39). -/
def Obligations.RequestAccepted : Prop :=
  ∀ (cmd : Byte) (reg : Option RegId) (payload : List Byte) (tag : Tag) (now : Time) (i : Instr) (s : State)
    (raw : List Byte), Asks cmd reg payload tag now i → tag ≠ .internal →
    raw = cmd :: (match reg with | none => payload | some r => r.setWidth 8 :: (r >>> 8).setWidth 8 :: 0x00 :: payload) →
    raw.length ≤ s.cfg.reqRawCap → s.nowOk now = true → s.q.length < s.cfg.queueCap →
    (s.q = [] → exec i s = .next { stamp now s with
      q := [{ raw := raw, cmd := cmd, reg := reg, tag := tag }], qTxTime := now, ret := some true
      ev := s.ev ++ [.tx (encodeFrame raw)] }) ∧
    (s.q ≠ [] → exec i s = .next { stamp now s with
      q := s.q ++ [{ raw := raw, cmd := cmd, reg := reg, tag := tag }], ret := some true })

/-- R244: a request into a full ring changes no state, resolves at once with QUEUE_FULL and returns false. -/
def Obligations.RequestQueueFull : Prop :=
  ∀ (cmd : Byte) (reg : Option RegId) (payload : List Byte) (tag : Tag) (now : Time) (i : Instr) (s : State),
    Asks cmd reg payload tag now i → tag ≠ .internal → (requestRaw cmd reg payload).length ≤ s.cfg.reqRawCap →
    s.nowOk now = true → s.q.length = s.cfg.queueCap →
    exec i s = .next { stamp now s with ret := some false, ev := s.ev ++ [.resolved tag .queueFull none] }

/-- What the spec refuses sets `REFUSED` and changes nothing else (R316; D19, D27, D37, D3; a refused operation returns nothing,
log 6): selector 111, an oversize request, the tag INTERNAL, a `now` that breaks R346.  When it breaks R346 is log 7: `now` less the
last one, or a running timer, has reached 2^31; or a TICK comes `2^31 - max(COMMAND_TIMEOUT, LINK_TIMEOUT)` after the last one. -/
def Obligations.RefusedOperationsOnlyMark : Prop :=
  (∀ (now : Time) (s : State), (s.nowOk now = false ↔ BadNow now s) ∧
    (s.tickGapOk now = false ↔ ∃ g, s.tickGap = some g ∧
      2 ^ 31 - max s.cfg.commandTimeout.toNat s.cfg.linkTimeout.toNat ≤ g + passed now s)) ∧
  (∀ s : State, exec .reservedOp s = .next { s with refused := true, ret := none }) ∧
  (∀ (cmd : Byte) (reg : Option RegId) (payload : List Byte) (tag : Tag) (now : Time) (i : Instr) (s : State),
    Asks cmd reg payload tag now i →
    (tag = .internal ∨ s.cfg.reqRawCap < (requestRaw cmd reg payload).length ∨ s.nowOk now = false) →
    exec i s = .next { s with refused := true, ret := none }) ∧
  (∀ (b : Byte) (now : Time) (i : Instr) (s : State), Presents b now i → s.nowOk now = false →
    exec i s = .next { s with refused := true, ret := none }) ∧
  (∀ (now : Time) (s : State), (s.nowOk now = false ∨ s.tickGapOk now = false) →
    exec (.tick now) s = .next { s with refused := true, ret := none })

/-- R246: the head resolves, its slot is freed, and the next request is transmitted, or, when the ring drains during a sweep,
the sweep goes on. -/
def Obligations.ResolvingHeadAdvancesQueue : Prop :=
  ∀ (st : Status) (reply : Option (List Byte)) (now : Time) (r : Slot) (s : State),
    (∀ (r' : Slot) (more : List Slot), s.q = r :: r' :: more →
      resolveHead st reply now s = { s with
        q := r' :: more, qHead := (s.qHead + 1) % s.cfg.queueCap, qTxTime := now
        ev := s.ev ++ [.resolved r.tag st reply, .tx (encodeFrame r'.raw)] }) ∧
    (s.q = [r] → s.sweepActive = false →
      resolveHead st reply now s = { s with
        q := [], qHead := (s.qHead + 1) % s.cfg.queueCap, ev := s.ev ++ [.resolved r.tag st reply] }) ∧
    (s.q = [r] → s.sweepActive = true →
      resolveHead st reply now s = sweepNext now { s with
        q := [], qHead := (s.qHead + 1) % s.cfg.queueCap, ev := s.ev ++ [.resolved r.tag st reply] })

/-- When the ring has drained during a sweep the next key's `Get` is queued and transmitted with tag INTERNAL, and after the last
key the sweep ends (R247; D18, D27, D38).  The `Get` is stored and sent whatever `REQ_RAW_CAP` is: log 16. -/
def Obligations.SweepIssuesNextGet : Prop :=
  ∀ (now : Time) (s : State), s.q = [] → 1 ≤ s.cfg.queueCap →
    (∀ k : RegId, s.cfg.pollKeys[s.sweepCursor]? = some k →
      sweepNext now s = { s with
        sweepCursor := s.sweepCursor + 1, qTxTime := now
        q := [{ raw := [0x07, k.setWidth 8, (k >>> 8).setWidth 8, 0x00], cmd := 0x07, reg := some k, tag := .internal }]
        ev := s.ev ++ [.tx (encodeFrame [0x07, k.setWidth 8, (k >>> 8).setWidth 8, 0x00])] }) ∧
    (s.cfg.pollKeys.length ≤ s.sweepCursor → sweepNext now s = { s with sweepActive := false })

/-- Connection (R258; D21, D27, D42): nothing while connected; else the flag, and with HEX enabled and a non-empty index the
sweep and the keepalive `Ping`, which transmits, queues or resolves QUEUE_FULL as any request does. -/
def Obligations.FirstFrameConnects : Prop :=
  ∀ (now : Time) (s : State),
    (s.connected = true → maybeConnect now s = s) ∧
    (s.connected = false → (s.cfg.hexEnabled && s.cfg.indexNonempty) = false →
      maybeConnect now s = { s with connected := true }) ∧
    (s.connected = false → s.cfg.hexEnabled = true → s.cfg.indexNonempty = true →
      maybeConnect now s =
        if s.q.length = s.cfg.queueCap then
          { s with connected := true, sweepActive := true, sweepCursor := 0
                   ev := s.ev ++ [.resolved .internal .queueFull none] }
        else if s.q = [] then
          { s with connected := true, sweepActive := true, sweepCursor := 0, qTxTime := now
                   q := [{ raw := [0x01], cmd := 0x01, reg := none, tag := .internal }]
                   ev := s.ev ++ [.tx (encodeFrame [0x01])] }
        else
          { s with connected := true, sweepActive := true, sweepCursor := 0
                   q := s.q ++ [{ raw := [0x01], cmd := 0x01, reg := none, tag := .internal }] })

/-! ## Replies -/

/-- A reply row feeds its frame (R123; that a row stands for FEED_HEX is log 11).  Outside `HEX` and within the receive buffer the
frame is received whole, then matched, then connects (R151, R180).  Inside `HEX` its `':'` is a coding error (R197), and a longer
frame overflows (R198); after either the decoder is reset, the frame's digits are ignored and its LF starts a TEXT frame where TEXT
is enabled (R184, R185).  At a `now` that breaks R346 every byte is refused (R316, log 7). -/
def Obligations.ReplyFrameReceivedWhole : Prop :=
  ∀ (code : Byte) (rest : List Byte) (now : Time) (i : Instr) (s : State), Replies code rest now i →
    (s.nowOk now = true → s.fs ≠ .hex → rest.length + 2 ≤ s.cfg.hexRawCap →
      exec i s = .next (maybeConnect now (onHexReply (code :: rest) now (framed now (code :: rest) s)))) ∧
    (s.nowOk now = true → s.fs = .hex →
      exec i s = .next (if s.cfg.textEnabled then { hexAborted now .coding s with fs := .textName, txtSum := 0x0A }
                        else hexAborted now .coding s)) ∧
    (s.nowOk now = true → s.fs ≠ .hex → s.cfg.hexRawCap < rest.length + 2 →
      exec i s = .next (if s.cfg.textEnabled then { hexAborted now .overflow s with fs := .textName, txtSum := 0x0A }
                        else hexAborted now .overflow s)) ∧
    (s.nowOk now = false → exec i s = .next { s with refused := true, ret := none })

/-- `Done` resolves the request in flight with SUCCESS whatever its command (R250; the policy is D20).  The row is a whole frame at
one `now` (FEED_HEX, log 11), matched before it connects (D21). -/
def Obligations.DoneResolvesSuccess : Prop :=
  ∀ (rest : List Byte) (now : Time) (req : Slot) (others : List Slot) (s : State), s.q = req :: others →
    s.nowOk now = true → s.fs ≠ .hex → rest.length + 2 ≤ s.cfg.hexRawCap →
    exec (.repDone rest now) s =
      .next (maybeConnect now (resolveHead .success (some (0x01 :: rest)) now (framed now (0x01 :: rest) s)))

/-- `PingResp` resolves a `Ping` with SUCCESS and any other request with UNEXPECTED; no flags byte is examined (R251).  The row is a
whole frame at one `now` (FEED_HEX, log 11), matched before it connects (D21). -/
def Obligations.PingRespMatchesPingOnly : Prop :=
  ∀ (rest : List Byte) (now : Time) (req : Slot) (others : List Slot) (s : State), s.q = req :: others →
    s.nowOk now = true → s.fs ≠ .hex → rest.length + 2 ≤ s.cfg.hexRawCap →
    exec (.repPingResp rest now) s =
      .next (maybeConnect now (resolveHead (if req.cmd = 0x01 then .success else .unexpected) (some (0x05 :: rest)) now
        (framed now (0x05 :: rest) s)))

/-- A `Get` or `Set` reply with the request's command and register id (R252; D20) resolves it with FLAGS when its flags byte is
non-zero and with SUCCESS when it is 0 (R253).  The row is a whole frame at one `now` (FEED_HEX, log 11), matched before it connects
(D21). -/
def Obligations.MatchingRegisterReplyByFlags : Prop :=
  ∀ (code lo hi flags : Byte) (payload : List Byte) (now : Time) (i : Instr) (req : Slot) (others : List Slot) (s : State),
    (i = .repGet (lo :: hi :: flags :: payload) now ∧ code = 0x07 ∨
      i = .repSet (lo :: hi :: flags :: payload) now ∧ code = 0x08) →
    s.q = req :: others → req.cmd = code → req.reg = some (hi ++ lo) →
    s.nowOk now = true → s.fs ≠ .hex → payload.length + 5 ≤ s.cfg.hexRawCap →
    exec i s =
      .next (maybeConnect now (resolveHead (if flags = 0x00 then .success else .flags)
        (some (code :: lo :: hi :: flags :: payload)) now (framed now (code :: lo :: hi :: flags :: payload) s)))

/-- A `Get` or `Set` reply of another command or register id, or too short to carry register id and flags, resolves the request
with UNEXPECTED (R252; D20).  The row is a whole frame at one `now` (FEED_HEX, log 11), matched before it connects (D21). -/
def Obligations.MismatchedRegisterReplyUnexpected : Prop :=
  ∀ (code : Byte) (rest : List Byte) (now : Time) (i : Instr) (req : Slot) (others : List Slot) (s : State),
    (i = .repGet rest now ∧ code = 0x07 ∨ i = .repSet rest now ∧ code = 0x08) → s.q = req :: others →
    (rest.length < 3 ∨ req.cmd ≠ code ∨
      ∃ (lo hi : Byte) (more : List Byte), rest = lo :: hi :: more ∧ req.reg ≠ some (hi ++ lo)) →
    s.nowOk now = true → s.fs ≠ .hex → rest.length + 2 ≤ s.cfg.hexRawCap →
    exec i s =
      .next (maybeConnect now (resolveHead .unexpected (some (code :: rest)) now (framed now (code :: rest) s)))

/-- `Unknown`, `Error` and unrecognised replies resolve the request in flight with REMOTE (R254, R255; D20), and so does the empty
frame, which no row carries: whatever ends it in `HEX`, and fed as `":55\n"` (R115; D29).  A row is a whole frame at one `now`
(FEED_HEX, log 11), matched before it connects (D21). -/
def Obligations.RemoteRepliesResolveRemote : Prop :=
  (∀ (code : Byte) (rest : List Byte) (now : Time) (i : Instr) (req : Slot) (others : List Slot) (s : State),
    (i = .repUnknown rest now ∧ code = 0x03 ∨ i = .repError rest now ∧ code = 0x04 ∨
      i = .repUnrecognised code rest now ∧ isUnrecognisedCode code = true) → s.q = req :: others →
    s.nowOk now = true → s.fs ≠ .hex → rest.length + 2 ≤ s.cfg.hexRawCap →
    exec i s =
      .next (maybeConnect now (resolveHead .remote (some (code :: rest)) now (framed now (code :: rest) s)))) ∧
  (∀ (now : Time) (i : Instr) (req : Slot) (others : List Slot) (s : State), Presents 0x0A now i → s.q = req :: others →
    s.nowOk now = true → s.fs = .hex → s.rxc.phase = .aligned → s.rxc.sum = 0 → s.rxc.raw.length ≤ 1 →
    exec i s = .next (maybeConnect now (resolveHead .remote (some []) now (received now [] s)))) ∧
  (∀ (now : Time) (req : Slot) (others : List Slot) (s : State), s.q = req :: others →
    s.nowOk now = true → s.fs ≠ .hex → 1 ≤ s.cfg.hexRawCap →
    perform (feedOps now [0x3A, 0x35, 0x35, 0x0A]) s =
      .next (maybeConnect now (resolveHead .remote (some []) now (framed now [] s))))

/-- `Async` never resolves a request (R249; D20), and with nothing in flight no reply does (R248), the empty frame `":55\n"` (R115)
among them: such a frame is delivered and only connects.  A row is a whole frame at one `now` (FEED_HEX, log 11). -/
def Obligations.UnsolicitedFramesOnlyConnect : Prop :=
  (∀ (code : Byte) (rest : List Byte) (now : Time) (i : Instr) (s : State), Replies code rest now i →
    (code = 0x0A ∨ s.q = []) → s.nowOk now = true → s.fs ≠ .hex → rest.length + 2 ≤ s.cfg.hexRawCap →
    exec i s = .next (maybeConnect now (framed now (code :: rest) s))) ∧
  (∀ (now : Time) (s : State), s.q = [] → s.nowOk now = true → s.fs ≠ .hex → 1 ≤ s.cfg.hexRawCap →
    perform (feedOps now [0x3A, 0x35, 0x35, 0x0A]) s = .next (maybeConnect now (framed now [] s)))

/-! ## Time, connection, reset -/

/-- R263: the request in flight resolves with TIMEOUT at a TICK at least `COMMAND_TIMEOUT` after its transmission, and the queue
advances; before that a TICK changes nothing.  The link check comes first (D22). -/
def Obligations.CommandTimesOutAtTick : Prop :=
  ∀ (now : Time) (s : State), s.nowOk now = true → s.tickGapOk now = true →
    (s.connected = true → (now - s.lastRx).toNat < s.cfg.linkTimeout.toNat) →
    (s.q ≠ [] → s.cfg.commandTimeout.toNat ≤ (now - s.qTxTime).toNat →
      exec (.tick now) s = .next (resolveHead .timeout none now { stampTick now s with ret := none })) ∧
    ((s.q = [] ∨ (now - s.qTxTime).toNat < s.cfg.commandTimeout.toNat) →
      exec (.tick now) s = .next { stampTick now s with ret := none })

/-- A TICK at least `LINK_TIMEOUT` after the last received byte while connected takes the link down (R260, R261; the order of
effects is D25): every pending request resolves with TIMEOUT in FIFO order and none is transmitted, the decoder is reset, the sweep
ends, and `LAST_RX` and `Q_TX_TIME` stay. -/
def Obligations.LinkDownFlushesRing : Prop :=
  ∀ (now : Time) (s : State), s.Inv → s.nowOk now = true → s.tickGapOk now = true → s.connected = true →
    s.cfg.linkTimeout.toNat ≤ (now - s.lastRx).toNat →
    exec (.tick now) s = .next { stampTick now s with
      connected := false, ret := none
      fs := .idle, fsBackup := .idle, rxc := { raw := [], phase := .aligned, hi := 0, sum := 0x55 }
      txtName := [], txtValue := [], txtRec := [], txtSum := 0
      q := [], qHead := (s.qHead + s.q.length) % s.cfg.queueCap
      sweepActive := false, sweepCursor := 0
      ev := s.ev ++ s.q.map (fun r => .resolved r.tag .timeout none) ++ [.linkDown] }

/-- R264: `IS_CONNECTED` returns `CONNECTED` and does nothing else. -/
def Obligations.IsConnectedReturnsFlag : Prop :=
  ∀ s : State, exec .isConnected s = .next { s with ret := some s.connected }

/-- `RESET` gives the reset state of R53 for the block's own configuration, with no event (R340; D30, D40; the host's unread
input stays, log 17). -/
def Obligations.ResetConstructsFreshBlock : Prop :=
  ∀ s : State, exec .reset s = .next { State.resetOf s.cfg with inq := s.inq }

/-! ## Whole-machine rules -/

/-- Which elements an operation writes (R47, which the spec derives): a codec operation only `EV`; IS_CONNECTED nothing; a request
nothing of the decoder, the link and the sweep; an accepted byte, and a reply row's accepted frame, sets `LAST_RX` and never
`REFUSED`; a TICK never `LAST_RX`, and one that leaves the link up nothing of the decoder; RESET every element.  The host's input and
the configuration are written by none.  The model's own fields `ret` (log 6) and `lastNow` (log 7) are said where they are written. -/
def Obligations.OperationsWriteOnlyTheirElements : Prop :=
  (∀ (i : Instr) (s t : State), ((∃ raw, i = .codecEncode raw) ∨ ∃ chars, i = .codecReencode chars) → exec i s = .next t →
    t = { s with ret := none, ev := t.ev }) ∧
  (∀ (s t : State), exec .isConnected s = .next t → t = { s with ret := t.ret }) ∧
  (∀ (cmd : Byte) (reg : Option RegId) (payload : List Byte) (tag : Tag) (now : Time) (i : Instr) (s t : State),
    Asks cmd reg payload tag now i → exec i s = .next t →
    SameDecoder s t ∧ t.connected = s.connected ∧ t.lastRx = s.lastRx ∧ t.sweepActive = s.sweepActive ∧
    t.sweepCursor = s.sweepCursor ∧ t.qHead = s.qHead) ∧
  (∀ (b code : Byte) (rest : List Byte) (now : Time) (i : Instr) (s t : State),
    (Presents b now i ∨ Replies code rest now i) → s.nowOk now = true → exec i s = .next t →
    t.lastRx = now ∧ t.refused = s.refused ∧ t.lastNow = some now) ∧
  (∀ (now : Time) (s t : State), exec (.tick now) s = .next t →
    t.lastRx = s.lastRx ∧ (t.connected = s.connected → SameDecoder s t)) ∧
  (∀ (s t : State), exec .reset s = .next t → t = { State.resetOf s.cfg with inq := s.inq }) ∧
  (∀ (i : Instr) (s t : State), exec i s = .next t → t.inq = s.inq ∧ t.cfg = s.cfg)

/-- FIFO completion and exactly-once resolution (R265, R266, which the spec derives): in one operation the requests that leave the
ring are its oldest ones, each with exactly one resolution, in order; what enters it is the accepted request of the operation, or
the block's own; and nothing else leaves or enters. -/
def Obligations.RequestsCompleteInOrder : Prop :=
  ∀ (i : Instr) (s t : State), exec i s = .next t → i ≠ .reset →
    ∃ (es : List Event) (done added : List Slot),
      t.ev = s.ev ++ es ∧ s.q ++ added = done ++ t.q ∧ completions es = done.map Slot.tag ∧
      (∀ r ∈ added, r.tag = .internal ∨
        ∃ (cmd : Byte) (reg : Option RegId) (payload : List Byte) (tag : Tag) (now : Time), Asks cmd reg payload tag now i) ∧
      (∀ (cmd : Byte) (reg : Option RegId) (payload : List Byte) (tag : Tag) (now : Time), Asks cmd reg payload tag now i →
        added = if t.ret = some true then [{ raw := requestRaw cmd reg payload, cmd := cmd, reg := reg, tag := tag }] else [])
end

