-- ==== Sys2Proof/Laws/Codec.lean ====
section
/-! SUPPORT. Hex digits, bytes and the HexCodec: what each function answers on each kind of input, said once. -/

namespace Sys2Proof.Machine

@[simp] theorem hexval_lf (l : Bool) : hexval l chLf = none := by cases l <;> decide
@[simp] theorem hexval_nul (l : Bool) : hexval l chNul = none := by cases l <;> decide
@[simp] theorem hexval_colon (l : Bool) : hexval l chColon = none := by cases l <;> decide

/-- Uppercase digits are read back whatever `HEX_LOWER_OK` is (R155). -/
@[simp] theorem hexval_hexdig (l : Bool) (v : Nibble) : hexval l (hexdig v) = some v := by
  revert l v; decide

theorem hexval_some_ne {l : Bool} {c : Byte} {v : Nibble} (h : hexval l c = some v) :
    c ≠ chLf ∧ c ≠ chNul ∧ c ≠ chColon := by
  refine ⟨?_, ?_, ?_⟩ <;> rintro rfl <;> simp at h

@[simp] theorem hexdig_ne_lf (v : Nibble) : hexdig v ≠ chLf := (hexval_some_ne (hexval_hexdig true v)).1
@[simp] theorem hexdig_ne_nul (v : Nibble) : hexdig v ≠ chNul := (hexval_some_ne (hexval_hexdig true v)).2.1
@[simp] theorem hexdig_ne_colon (v : Nibble) : hexdig v ≠ chColon := (hexval_some_ne (hexval_hexdig true v)).2.2

/-- The two nibbles of a byte give it back (R77). -/
@[simp] theorem byteOf_nibbles (b : Byte) : byteOf (hiNibble b) (loNibble b) = b := by
  revert b; decide

@[simp] theorem checksum_nil : checksum [] = 0x55 := rfl

theorem checksum_append (xs : List Byte) (b : Byte) : checksum (xs ++ [b]) = checksum xs - b := by
  simp [checksum]

/-- Appending its own checksum takes the seeded sum to 0 (R150). -/
theorem checksum_append_self (xs : List Byte) : checksum (xs ++ [checksum xs]) = 0 := by
  simp [checksum_append]

@[simp] theorem decodeStep_lf (cap : Nat) (l : Bool) (cs : Codec) : decodeStep cap l chLf cs = (cs, codecEnd cs) := rfl
@[simp] theorem decodeStep_nul (cap : Nat) (l : Bool) (cs : Codec) : decodeStep cap l chNul cs = (cs, codecNul cs) := rfl

theorem decodeStep_digit {l : Bool} {c : Byte} {v : Nibble} (h : hexval l c = some v) (cap : Nat) (cs : Codec) :
    decodeStep cap l c cs = codecNibble cap v cs := by
  obtain ⟨h1, h2, -⟩ := hexval_some_ne h
  simp [decodeStep, codecDigit, h1, h2, h]

theorem decodeStep_other {l : Bool} {c : Byte} (h : hexval l c = none) (h1 : c ≠ chLf) (h2 : c ≠ chNul) (cap : Nat)
    (cs : Codec) : decodeStep cap l c cs = (cs, .codingError) := by
  simp [decodeStep, codecDigit, h1, h2, h]

theorem codecNibble_aligned {cs : Codec} (h : cs.phase = .aligned) (cap : Nat) (v : Nibble) :
    codecNibble cap v cs = ({ cs with hi := v, phase := .half }, .continue) := by
  simp [codecNibble, h]

theorem codecNibble_full {cs : Codec} {cap : Nat} (h : cs.phase = .half) (hc : cs.raw.length = cap) (v : Nibble) :
    codecNibble cap v cs = (cs, .overflow) := by
  simp [codecNibble, h, hc]

theorem codecNibble_store {cs : Codec} {cap : Nat} (h : cs.phase = .half) (hc : cs.raw.length ≠ cap) (v : Nibble) :
    codecNibble cap v cs =
      ({ cs with raw := cs.raw ++ [byteOf cs.hi v], sum := cs.sum - byteOf cs.hi v, phase := .aligned }, .continue) := by
  simp [codecNibble, h, hc]

/-- Everything DecodeStep can do to the codec: keep it, latch a digit, or store a byte below the capacity. -/
theorem decodeStep_codec (cap : Nat) (l : Bool) (c : Byte) (cs : Codec) :
    (decodeStep cap l c cs).1 = cs ∨
    (∃ v, cs.phase = .aligned ∧ (decodeStep cap l c cs).1 = { cs with hi := v, phase := .half }) ∨
    (∃ v, cs.phase = .half ∧ cs.raw.length ≠ cap ∧ (decodeStep cap l c cs).1 =
      { cs with raw := cs.raw ++ [byteOf cs.hi v], sum := cs.sum - byteOf cs.hi v, phase := .aligned }) := by
  by_cases h1 : c = chLf
  · subst h1; simp
  · by_cases h2 : c = chNul
    · subst h2; simp
    · cases hv : hexval l c with
      | none => simp [decodeStep_other hv h1 h2]
      | some v =>
        rw [decodeStep_digit hv]
        cases hp : cs.phase with
        | aligned => right; left; exact ⟨v, rfl, by simp [codecNibble, hp]⟩
        | half =>
          by_cases hc : cs.raw.length = cap
          · left; simp [codecNibble, hp, hc]
          · right; right; exact ⟨v, rfl, hc, by simp [codecNibble, hp, hc]⟩

end Sys2Proof.Machine
end

