-- ==== Sys2Proof/Laws/Decode.lean ====
section
/-! SUPPORT. Readers undo writers, and a reader that succeeds says what its bytes were: the two halves the round trips of the host
image are put together from. -/

namespace Sys2Proof

/-! ## Rows -/

theorem rxClass_hexdigit {b : Byte} (h : isHexdigitByte b = true) : rxClass b = .hexdigit := by
  revert b; decide
theorem rxClass_hexdigitLower {b : Byte} (h : isHexdigitLowerByte b = true) : rxClass b = .hexdigitLower := by
  revert b; decide
theorem rxClass_other {b : Byte} (h : isOtherByte b = true) : rxClass b = .other := by
  revert b; decide

theorem rowOf_unrecognised {c : Byte} (h : isUnrecognisedCode c = true) : rowOf repRows c = some .unrecognised := by
  revert c; decide

/-! ## Reading what was written -/

@[simp] theorem getU8_cons (b : Byte) (bs : List Byte) : getU8 (b :: bs) = .ok (b, bs) := rfl

theorem bytes_of_u16 (v : BitVec 16) : v.extractLsb' 8 8 ++ v.extractLsb' 0 8 = v := by
  apply BitVec.eq_of_getLsbD_eq; intro i hi
  rw [BitVec.getLsbD_append, BitVec.getLsbD_extractLsb', BitVec.getLsbD_extractLsb']
  by_cases h : i < 8
  · simp [h]
  · simp only [h, if_false, show i - 8 < 8 by omega, show 8 + (i - 8) = i by omega]; simp

theorem bytes_of_u32 (v : BitVec 32) :
    v.extractLsb' 24 8 ++ v.extractLsb' 16 8 ++ v.extractLsb' 8 8 ++ v.extractLsb' 0 8 = v := by
  apply BitVec.eq_of_getLsbD_eq; intro i hi
  simp only [BitVec.getLsbD_append, BitVec.getLsbD_extractLsb']
  split
  · simp [*]
  · split
    · simp only [*, show 8 + (i - 8) = i by omega]; simp
    · split
      · simp only [*, show 16 + (i - 8 - 8) = i by omega]; simp
      · simp only [show i - 8 - 8 - 8 < 8 by omega, show 24 + (i - 8 - 8 - 8) = i by omega]; simp

@[simp] theorem getU16_putU16 (v : BitVec 16) (bs : List Byte) : getU16 (putU16 v ++ bs) = .ok (v, bs) := by
  simp [putU16, getU16, bytes_of_u16]

@[simp] theorem getU32_putU32 (v : BitVec 32) (bs : List Byte) : getU32 (putU32 v ++ bs) = .ok (v, bs) := by
  simp only [putU32, getU32, List.cons_append, List.nil_append]; rw [bytes_of_u32]

@[simp] theorem getU32_putU32_nil (v : BitVec 32) : getU32 (putU32 v) = .ok (v, []) := by
  simpa using getU32_putU32 v []

theorem getBytes_putBytes {xs : List Byte} (h : fitsLength xs = true) (bs : List Byte) :
    getBytes (putBytes xs ++ bs) = .ok (xs, bs) := by
  have h' : xs.length < 65536 := by simpa [fitsLength] using h
  simp [getBytes, putBytes, bind, Except.bind, Nat.mod_eq_of_lt h']

@[simp] theorem getReg_putReg (r : Option RegId) (bs : List Byte) : getReg (putReg r ++ bs) = .ok (r, bs) := by
  cases r <;> simp [getReg, putReg, bind, Except.bind]

@[simp] theorem getTag_putTag (t : Tag) (bs : List Byte) : getTag (putTag t ++ bs) = .ok (t, bs) := by
  cases t <;> simp [getTag, putTag, bind, Except.bind]

/-! ## What was read -/

theorem getU8_ok {bs rest : List Byte} {b : Byte} (h : getU8 bs = .ok (b, rest)) : bs = b :: rest := by
  cases bs <;> simp_all [getU8]

theorem u16_of_bytes (b0 b1 : Byte) : putU16 (b1 ++ b0) = [b0, b1] := by
  simp only [putU16, List.cons.injEq, and_true]
  constructor <;> apply BitVec.eq_of_getLsbD_eq <;> intro i hi <;>
    rw [BitVec.getLsbD_extractLsb', BitVec.getLsbD_append]
  · simp [hi]
  · rw [if_neg (by omega), show 8 + i - 8 = i by omega]; simp [hi]

theorem u32_of_bytes (b0 b1 b2 b3 : Byte) : putU32 (b3 ++ b2 ++ b1 ++ b0) = [b0, b1, b2, b3] := by
  simp only [putU32, List.cons.injEq, and_true]
  refine ⟨?_, ?_, ?_, ?_⟩ <;> apply BitVec.eq_of_getLsbD_eq <;> intro i hi <;>
    rw [BitVec.getLsbD_extractLsb', BitVec.getLsbD_append]
  · simp [hi]
  · rw [if_neg (by omega), show 8 + i - 8 = i by omega, BitVec.getLsbD_append]; simp [hi]
  · rw [if_neg (by omega), BitVec.getLsbD_append, if_neg (by omega), BitVec.getLsbD_append, if_pos (by omega),
      show 16 + i - 8 - 8 = i by omega]
    simp [hi]
  · rw [if_neg (by omega), BitVec.getLsbD_append, if_neg (by omega), BitVec.getLsbD_append, if_neg (by omega),
      show 24 + i - 8 - 8 - 8 = i by omega]
    simp [hi]

theorem getU16_ok {bs rest : List Byte} {v : BitVec 16} (h : getU16 bs = .ok (v, rest)) : bs = putU16 v ++ rest := by
  match bs, h with
  | b0 :: b1 :: bs, h => simp [getU16] at h; obtain ⟨rfl, rfl⟩ := h; simp [u16_of_bytes]

theorem getU32_ok {bs rest : List Byte} {v : BitVec 32} (h : getU32 bs = .ok (v, rest)) : bs = putU32 v ++ rest := by
  match bs, h with
  | b0 :: b1 :: b2 :: b3 :: bs, h => simp only [getU32, Except.ok.injEq, Prod.mk.injEq] at h; obtain ⟨rfl, rfl⟩ := h; rw [u32_of_bytes]; rfl

theorem getBytes_ok {bs rest xs : List Byte} (h : getBytes bs = .ok (xs, rest)) :
    fitsLength xs = true ∧ bs = putBytes xs ++ rest := by
  cases h1 : getU16 bs with
  | error e => simp [getBytes, h1, bind, Except.bind] at h
  | ok p =>
    obtain ⟨n, bs'⟩ := p
    simp only [getBytes, h1, bind, Except.bind] at h
    split at h
    · cases h
    · rename_i hn
      simp only [Except.ok.injEq, Prod.mk.injEq] at h
      obtain ⟨rfl, rfl⟩ := h
      have hl : (bs'.take n.toNat).length = n.toNat := by simp; omega
      have := n.isLt
      refine ⟨by simp only [fitsLength, hl]; simpa using this, ?_⟩
      rw [getU16_ok h1, putBytes, hl]; simp

theorem getReg_ok {bs rest : List Byte} {r : Option RegId} (h : getReg bs = .ok (r, rest)) : bs = putReg r ++ rest := by
  cases h1 : getU8 bs with
  | error e => simp [getReg, h1, bind, Except.bind] at h
  | ok p =>
    obtain ⟨f, bs'⟩ := p
    have e := getU8_ok h1
    simp only [getReg, h1, bind, Except.bind] at h
    split at h
    · simp only [Except.ok.injEq, Prod.mk.injEq] at h; obtain ⟨rfl, rfl⟩ := h; simp_all [putReg]
    · split at h
      · cases h2 : getU16 bs' with
        | error e => simp [h2] at h
        | ok q =>
          obtain ⟨v, bs''⟩ := q
          simp only [h2, Except.ok.injEq, Prod.mk.injEq] at h
          obtain ⟨rfl, rfl⟩ := h
          simp_all [putReg, getU16_ok h2]
      · cases h

theorem getTag_ok {bs rest : List Byte} {t : Tag} (h : getTag bs = .ok (t, rest)) : bs = putTag t ++ rest := by
  cases h1 : getU8 bs with
  | error e => simp [getTag, h1, bind, Except.bind] at h
  | ok p =>
    obtain ⟨f, bs'⟩ := p
    have e := getU8_ok h1
    simp only [getTag, h1, bind, Except.bind] at h
    split at h
    · cases h2 : getU32 bs' with
      | error e => simp [h2] at h
      | ok q =>
        obtain ⟨v, bs''⟩ := q
        simp only [h2, Except.ok.injEq, Prod.mk.injEq] at h
        obtain ⟨rfl, rfl⟩ := h
        simp_all [putTag, getU32_ok h2]
    · split at h
      · simp only [Except.ok.injEq, Prod.mk.injEq] at h; obtain ⟨rfl, rfl⟩ := h; simp_all [putTag]
      · cases h

end Sys2Proof
end

