-- ==== Sys2Proof/Laws/State.lean ====
section
/-! SUPPORT. What each plain update of the state leaves in each field: one lemma per field per update, by unfolding, so that no
later proof unfolds an update. -/

namespace Sys2Proof.Machine

@[simp] theorem emit_cfg (s : State) (e : Event) : (emit s e).cfg = s.cfg := rfl
@[simp] theorem emit_fs (s : State) (e : Event) : (emit s e).fs = s.fs := rfl
@[simp] theorem emit_fsBackup (s : State) (e : Event) : (emit s e).fsBackup = s.fsBackup := rfl
@[simp] theorem emit_rxc (s : State) (e : Event) : (emit s e).rxc = s.rxc := rfl
@[simp] theorem emit_txtName (s : State) (e : Event) : (emit s e).txtName = s.txtName := rfl
@[simp] theorem emit_txtValue (s : State) (e : Event) : (emit s e).txtValue = s.txtValue := rfl
@[simp] theorem emit_txtRec (s : State) (e : Event) : (emit s e).txtRec = s.txtRec := rfl
@[simp] theorem emit_txtSum (s : State) (e : Event) : (emit s e).txtSum = s.txtSum := rfl
@[simp] theorem emit_q (s : State) (e : Event) : (emit s e).q = s.q := rfl
@[simp] theorem emit_qHead (s : State) (e : Event) : (emit s e).qHead = s.qHead := rfl
@[simp] theorem emit_qTxTime (s : State) (e : Event) : (emit s e).qTxTime = s.qTxTime := rfl
@[simp] theorem emit_connected (s : State) (e : Event) : (emit s e).connected = s.connected := rfl
@[simp] theorem emit_lastRx (s : State) (e : Event) : (emit s e).lastRx = s.lastRx := rfl
@[simp] theorem emit_sweepActive (s : State) (e : Event) : (emit s e).sweepActive = s.sweepActive := rfl
@[simp] theorem emit_sweepCursor (s : State) (e : Event) : (emit s e).sweepCursor = s.sweepCursor := rfl
@[simp] theorem emit_refused (s : State) (e : Event) : (emit s e).refused = s.refused := rfl
@[simp] theorem emit_ev (s : State) (e : Event) : (emit s e).ev = s.ev ++ [e] := rfl
@[simp] theorem emit_ret (s : State) (e : Event) : (emit s e).ret = s.ret := rfl
@[simp] theorem emit_lastNow (s : State) (e : Event) : (emit s e).lastNow = s.lastNow := rfl
@[simp] theorem emit_tickGap (s : State) (e : Event) : (emit s e).tickGap = s.tickGap := rfl
@[simp] theorem emit_inq (s : State) (e : Event) : (emit s e).inq = s.inq := rfl

@[simp] theorem giveBack_cfg (v : Option Bool) (s : State) : (giveBack v s).cfg = s.cfg := rfl
@[simp] theorem giveBack_fs (v : Option Bool) (s : State) : (giveBack v s).fs = s.fs := rfl
@[simp] theorem giveBack_fsBackup (v : Option Bool) (s : State) : (giveBack v s).fsBackup = s.fsBackup := rfl
@[simp] theorem giveBack_rxc (v : Option Bool) (s : State) : (giveBack v s).rxc = s.rxc := rfl
@[simp] theorem giveBack_txtName (v : Option Bool) (s : State) : (giveBack v s).txtName = s.txtName := rfl
@[simp] theorem giveBack_txtValue (v : Option Bool) (s : State) : (giveBack v s).txtValue = s.txtValue := rfl
@[simp] theorem giveBack_txtRec (v : Option Bool) (s : State) : (giveBack v s).txtRec = s.txtRec := rfl
@[simp] theorem giveBack_txtSum (v : Option Bool) (s : State) : (giveBack v s).txtSum = s.txtSum := rfl
@[simp] theorem giveBack_q (v : Option Bool) (s : State) : (giveBack v s).q = s.q := rfl
@[simp] theorem giveBack_qHead (v : Option Bool) (s : State) : (giveBack v s).qHead = s.qHead := rfl
@[simp] theorem giveBack_qTxTime (v : Option Bool) (s : State) : (giveBack v s).qTxTime = s.qTxTime := rfl
@[simp] theorem giveBack_connected (v : Option Bool) (s : State) : (giveBack v s).connected = s.connected := rfl
@[simp] theorem giveBack_lastRx (v : Option Bool) (s : State) : (giveBack v s).lastRx = s.lastRx := rfl
@[simp] theorem giveBack_sweepActive (v : Option Bool) (s : State) : (giveBack v s).sweepActive = s.sweepActive := rfl
@[simp] theorem giveBack_sweepCursor (v : Option Bool) (s : State) : (giveBack v s).sweepCursor = s.sweepCursor := rfl
@[simp] theorem giveBack_refused (v : Option Bool) (s : State) : (giveBack v s).refused = s.refused := rfl
@[simp] theorem giveBack_ev (v : Option Bool) (s : State) : (giveBack v s).ev = s.ev := rfl
@[simp] theorem giveBack_ret (v : Option Bool) (s : State) : (giveBack v s).ret = v := rfl
@[simp] theorem giveBack_lastNow (v : Option Bool) (s : State) : (giveBack v s).lastNow = s.lastNow := rfl
@[simp] theorem giveBack_tickGap (v : Option Bool) (s : State) : (giveBack v s).tickGap = s.tickGap := rfl
@[simp] theorem giveBack_inq (v : Option Bool) (s : State) : (giveBack v s).inq = s.inq := rfl

@[simp] theorem refuse_cfg (s : State) : (refuse s).cfg = s.cfg := rfl
@[simp] theorem refuse_fs (s : State) : (refuse s).fs = s.fs := rfl
@[simp] theorem refuse_fsBackup (s : State) : (refuse s).fsBackup = s.fsBackup := rfl
@[simp] theorem refuse_rxc (s : State) : (refuse s).rxc = s.rxc := rfl
@[simp] theorem refuse_txtName (s : State) : (refuse s).txtName = s.txtName := rfl
@[simp] theorem refuse_txtValue (s : State) : (refuse s).txtValue = s.txtValue := rfl
@[simp] theorem refuse_txtRec (s : State) : (refuse s).txtRec = s.txtRec := rfl
@[simp] theorem refuse_txtSum (s : State) : (refuse s).txtSum = s.txtSum := rfl
@[simp] theorem refuse_q (s : State) : (refuse s).q = s.q := rfl
@[simp] theorem refuse_qHead (s : State) : (refuse s).qHead = s.qHead := rfl
@[simp] theorem refuse_qTxTime (s : State) : (refuse s).qTxTime = s.qTxTime := rfl
@[simp] theorem refuse_connected (s : State) : (refuse s).connected = s.connected := rfl
@[simp] theorem refuse_lastRx (s : State) : (refuse s).lastRx = s.lastRx := rfl
@[simp] theorem refuse_sweepActive (s : State) : (refuse s).sweepActive = s.sweepActive := rfl
@[simp] theorem refuse_sweepCursor (s : State) : (refuse s).sweepCursor = s.sweepCursor := rfl
@[simp] theorem refuse_refused (s : State) : (refuse s).refused = true := rfl
@[simp] theorem refuse_ev (s : State) : (refuse s).ev = s.ev := rfl
@[simp] theorem refuse_ret (s : State) : (refuse s).ret = none := rfl
@[simp] theorem refuse_lastNow (s : State) : (refuse s).lastNow = s.lastNow := rfl
@[simp] theorem refuse_tickGap (s : State) : (refuse s).tickGap = s.tickGap := rfl
@[simp] theorem refuse_inq (s : State) : (refuse s).inq = s.inq := rfl

@[simp] theorem stamp_cfg (now : Time) (s : State) : (stamp now s).cfg = s.cfg := rfl
@[simp] theorem stamp_fs (now : Time) (s : State) : (stamp now s).fs = s.fs := rfl
@[simp] theorem stamp_fsBackup (now : Time) (s : State) : (stamp now s).fsBackup = s.fsBackup := rfl
@[simp] theorem stamp_rxc (now : Time) (s : State) : (stamp now s).rxc = s.rxc := rfl
@[simp] theorem stamp_txtName (now : Time) (s : State) : (stamp now s).txtName = s.txtName := rfl
@[simp] theorem stamp_txtValue (now : Time) (s : State) : (stamp now s).txtValue = s.txtValue := rfl
@[simp] theorem stamp_txtRec (now : Time) (s : State) : (stamp now s).txtRec = s.txtRec := rfl
@[simp] theorem stamp_txtSum (now : Time) (s : State) : (stamp now s).txtSum = s.txtSum := rfl
@[simp] theorem stamp_q (now : Time) (s : State) : (stamp now s).q = s.q := rfl
@[simp] theorem stamp_qHead (now : Time) (s : State) : (stamp now s).qHead = s.qHead := rfl
@[simp] theorem stamp_qTxTime (now : Time) (s : State) : (stamp now s).qTxTime = s.qTxTime := rfl
@[simp] theorem stamp_connected (now : Time) (s : State) : (stamp now s).connected = s.connected := rfl
@[simp] theorem stamp_lastRx (now : Time) (s : State) : (stamp now s).lastRx = s.lastRx := rfl
@[simp] theorem stamp_sweepActive (now : Time) (s : State) : (stamp now s).sweepActive = s.sweepActive := rfl
@[simp] theorem stamp_sweepCursor (now : Time) (s : State) : (stamp now s).sweepCursor = s.sweepCursor := rfl
@[simp] theorem stamp_refused (now : Time) (s : State) : (stamp now s).refused = s.refused := rfl
@[simp] theorem stamp_ev (now : Time) (s : State) : (stamp now s).ev = s.ev := rfl
@[simp] theorem stamp_ret (now : Time) (s : State) : (stamp now s).ret = s.ret := rfl
@[simp] theorem stamp_lastNow (now : Time) (s : State) : (stamp now s).lastNow = some now := rfl
@[simp] theorem stamp_tickGap (now : Time) (s : State) : (stamp now s).tickGap = s.tickGap.map (· + s.sinceLast now) := rfl
@[simp] theorem stamp_inq (now : Time) (s : State) : (stamp now s).inq = s.inq := rfl

@[simp] theorem stampTick_cfg (now : Time) (s : State) : (stampTick now s).cfg = s.cfg := rfl
@[simp] theorem stampTick_fs (now : Time) (s : State) : (stampTick now s).fs = s.fs := rfl
@[simp] theorem stampTick_fsBackup (now : Time) (s : State) : (stampTick now s).fsBackup = s.fsBackup := rfl
@[simp] theorem stampTick_rxc (now : Time) (s : State) : (stampTick now s).rxc = s.rxc := rfl
@[simp] theorem stampTick_txtName (now : Time) (s : State) : (stampTick now s).txtName = s.txtName := rfl
@[simp] theorem stampTick_txtValue (now : Time) (s : State) : (stampTick now s).txtValue = s.txtValue := rfl
@[simp] theorem stampTick_txtRec (now : Time) (s : State) : (stampTick now s).txtRec = s.txtRec := rfl
@[simp] theorem stampTick_txtSum (now : Time) (s : State) : (stampTick now s).txtSum = s.txtSum := rfl
@[simp] theorem stampTick_q (now : Time) (s : State) : (stampTick now s).q = s.q := rfl
@[simp] theorem stampTick_qHead (now : Time) (s : State) : (stampTick now s).qHead = s.qHead := rfl
@[simp] theorem stampTick_qTxTime (now : Time) (s : State) : (stampTick now s).qTxTime = s.qTxTime := rfl
@[simp] theorem stampTick_connected (now : Time) (s : State) : (stampTick now s).connected = s.connected := rfl
@[simp] theorem stampTick_lastRx (now : Time) (s : State) : (stampTick now s).lastRx = s.lastRx := rfl
@[simp] theorem stampTick_sweepActive (now : Time) (s : State) : (stampTick now s).sweepActive = s.sweepActive := rfl
@[simp] theorem stampTick_sweepCursor (now : Time) (s : State) : (stampTick now s).sweepCursor = s.sweepCursor := rfl
@[simp] theorem stampTick_refused (now : Time) (s : State) : (stampTick now s).refused = s.refused := rfl
@[simp] theorem stampTick_ev (now : Time) (s : State) : (stampTick now s).ev = s.ev := rfl
@[simp] theorem stampTick_ret (now : Time) (s : State) : (stampTick now s).ret = s.ret := rfl
@[simp] theorem stampTick_lastNow (now : Time) (s : State) : (stampTick now s).lastNow = some now := rfl
@[simp] theorem stampTick_tickGap (now : Time) (s : State) : (stampTick now s).tickGap = some 0 := rfl
@[simp] theorem stampTick_inq (now : Time) (s : State) : (stampTick now s).inq = s.inq := rfl

@[simp] theorem codecClear_cfg (s : State) : (codecClear s).cfg = s.cfg := rfl
@[simp] theorem codecClear_fs (s : State) : (codecClear s).fs = s.fs := rfl
@[simp] theorem codecClear_fsBackup (s : State) : (codecClear s).fsBackup = s.fsBackup := rfl
@[simp] theorem codecClear_rxc (s : State) : (codecClear s).rxc = Codec.init := rfl
@[simp] theorem codecClear_txtName (s : State) : (codecClear s).txtName = s.txtName := rfl
@[simp] theorem codecClear_txtValue (s : State) : (codecClear s).txtValue = s.txtValue := rfl
@[simp] theorem codecClear_txtRec (s : State) : (codecClear s).txtRec = s.txtRec := rfl
@[simp] theorem codecClear_txtSum (s : State) : (codecClear s).txtSum = s.txtSum := rfl
@[simp] theorem codecClear_q (s : State) : (codecClear s).q = s.q := rfl
@[simp] theorem codecClear_qHead (s : State) : (codecClear s).qHead = s.qHead := rfl
@[simp] theorem codecClear_qTxTime (s : State) : (codecClear s).qTxTime = s.qTxTime := rfl
@[simp] theorem codecClear_connected (s : State) : (codecClear s).connected = s.connected := rfl
@[simp] theorem codecClear_lastRx (s : State) : (codecClear s).lastRx = s.lastRx := rfl
@[simp] theorem codecClear_sweepActive (s : State) : (codecClear s).sweepActive = s.sweepActive := rfl
@[simp] theorem codecClear_sweepCursor (s : State) : (codecClear s).sweepCursor = s.sweepCursor := rfl
@[simp] theorem codecClear_refused (s : State) : (codecClear s).refused = s.refused := rfl
@[simp] theorem codecClear_ev (s : State) : (codecClear s).ev = s.ev := rfl
@[simp] theorem codecClear_ret (s : State) : (codecClear s).ret = s.ret := rfl
@[simp] theorem codecClear_lastNow (s : State) : (codecClear s).lastNow = s.lastNow := rfl
@[simp] theorem codecClear_tickGap (s : State) : (codecClear s).tickGap = s.tickGap := rfl
@[simp] theorem codecClear_inq (s : State) : (codecClear s).inq = s.inq := rfl

@[simp] theorem textClear_cfg (s : State) : (textClear s).cfg = s.cfg := rfl
@[simp] theorem textClear_fs (s : State) : (textClear s).fs = s.fs := rfl
@[simp] theorem textClear_fsBackup (s : State) : (textClear s).fsBackup = s.fsBackup := rfl
@[simp] theorem textClear_rxc (s : State) : (textClear s).rxc = s.rxc := rfl
@[simp] theorem textClear_txtName (s : State) : (textClear s).txtName = [] := rfl
@[simp] theorem textClear_txtValue (s : State) : (textClear s).txtValue = [] := rfl
@[simp] theorem textClear_txtRec (s : State) : (textClear s).txtRec = [] := rfl
@[simp] theorem textClear_txtSum (s : State) : (textClear s).txtSum = 0 := rfl
@[simp] theorem textClear_q (s : State) : (textClear s).q = s.q := rfl
@[simp] theorem textClear_qHead (s : State) : (textClear s).qHead = s.qHead := rfl
@[simp] theorem textClear_qTxTime (s : State) : (textClear s).qTxTime = s.qTxTime := rfl
@[simp] theorem textClear_connected (s : State) : (textClear s).connected = s.connected := rfl
@[simp] theorem textClear_lastRx (s : State) : (textClear s).lastRx = s.lastRx := rfl
@[simp] theorem textClear_sweepActive (s : State) : (textClear s).sweepActive = s.sweepActive := rfl
@[simp] theorem textClear_sweepCursor (s : State) : (textClear s).sweepCursor = s.sweepCursor := rfl
@[simp] theorem textClear_refused (s : State) : (textClear s).refused = s.refused := rfl
@[simp] theorem textClear_ev (s : State) : (textClear s).ev = s.ev := rfl
@[simp] theorem textClear_ret (s : State) : (textClear s).ret = s.ret := rfl
@[simp] theorem textClear_lastNow (s : State) : (textClear s).lastNow = s.lastNow := rfl
@[simp] theorem textClear_tickGap (s : State) : (textClear s).tickGap = s.tickGap := rfl
@[simp] theorem textClear_inq (s : State) : (textClear s).inq = s.inq := rfl

@[simp] theorem textAbort_cfg (s : State) : (textAbort s).cfg = s.cfg := rfl
@[simp] theorem textAbort_fs (s : State) : (textAbort s).fs = .idle := rfl
@[simp] theorem textAbort_fsBackup (s : State) : (textAbort s).fsBackup = s.fsBackup := rfl
@[simp] theorem textAbort_rxc (s : State) : (textAbort s).rxc = s.rxc := rfl
@[simp] theorem textAbort_txtName (s : State) : (textAbort s).txtName = [] := rfl
@[simp] theorem textAbort_txtValue (s : State) : (textAbort s).txtValue = [] := rfl
@[simp] theorem textAbort_txtRec (s : State) : (textAbort s).txtRec = [] := rfl
@[simp] theorem textAbort_txtSum (s : State) : (textAbort s).txtSum = 0 := rfl
@[simp] theorem textAbort_q (s : State) : (textAbort s).q = s.q := rfl
@[simp] theorem textAbort_qHead (s : State) : (textAbort s).qHead = s.qHead := rfl
@[simp] theorem textAbort_qTxTime (s : State) : (textAbort s).qTxTime = s.qTxTime := rfl
@[simp] theorem textAbort_connected (s : State) : (textAbort s).connected = s.connected := rfl
@[simp] theorem textAbort_lastRx (s : State) : (textAbort s).lastRx = s.lastRx := rfl
@[simp] theorem textAbort_sweepActive (s : State) : (textAbort s).sweepActive = s.sweepActive := rfl
@[simp] theorem textAbort_sweepCursor (s : State) : (textAbort s).sweepCursor = s.sweepCursor := rfl
@[simp] theorem textAbort_refused (s : State) : (textAbort s).refused = s.refused := rfl
@[simp] theorem textAbort_ev (s : State) : (textAbort s).ev = s.ev := rfl
@[simp] theorem textAbort_ret (s : State) : (textAbort s).ret = s.ret := rfl
@[simp] theorem textAbort_lastNow (s : State) : (textAbort s).lastNow = s.lastNow := rfl
@[simp] theorem textAbort_tickGap (s : State) : (textAbort s).tickGap = s.tickGap := rfl
@[simp] theorem textAbort_inq (s : State) : (textAbort s).inq = s.inq := rfl

@[simp] theorem decoderReset_cfg (s : State) : (decoderReset s).cfg = s.cfg := rfl
@[simp] theorem decoderReset_fs (s : State) : (decoderReset s).fs = .idle := rfl
@[simp] theorem decoderReset_fsBackup (s : State) : (decoderReset s).fsBackup = .idle := rfl
@[simp] theorem decoderReset_rxc (s : State) : (decoderReset s).rxc = Codec.init := rfl
@[simp] theorem decoderReset_txtName (s : State) : (decoderReset s).txtName = [] := rfl
@[simp] theorem decoderReset_txtValue (s : State) : (decoderReset s).txtValue = [] := rfl
@[simp] theorem decoderReset_txtRec (s : State) : (decoderReset s).txtRec = [] := rfl
@[simp] theorem decoderReset_txtSum (s : State) : (decoderReset s).txtSum = 0 := rfl
@[simp] theorem decoderReset_q (s : State) : (decoderReset s).q = s.q := rfl
@[simp] theorem decoderReset_qHead (s : State) : (decoderReset s).qHead = s.qHead := rfl
@[simp] theorem decoderReset_qTxTime (s : State) : (decoderReset s).qTxTime = s.qTxTime := rfl
@[simp] theorem decoderReset_connected (s : State) : (decoderReset s).connected = s.connected := rfl
@[simp] theorem decoderReset_lastRx (s : State) : (decoderReset s).lastRx = s.lastRx := rfl
@[simp] theorem decoderReset_sweepActive (s : State) : (decoderReset s).sweepActive = s.sweepActive := rfl
@[simp] theorem decoderReset_sweepCursor (s : State) : (decoderReset s).sweepCursor = s.sweepCursor := rfl
@[simp] theorem decoderReset_refused (s : State) : (decoderReset s).refused = s.refused := rfl
@[simp] theorem decoderReset_ev (s : State) : (decoderReset s).ev = s.ev := rfl
@[simp] theorem decoderReset_ret (s : State) : (decoderReset s).ret = s.ret := rfl
@[simp] theorem decoderReset_lastNow (s : State) : (decoderReset s).lastNow = s.lastNow := rfl
@[simp] theorem decoderReset_tickGap (s : State) : (decoderReset s).tickGap = s.tickGap := rfl
@[simp] theorem decoderReset_inq (s : State) : (decoderReset s).inq = s.inq := rfl

@[simp] theorem enterHex_cfg (b : BackupState) (s : State) : (enterHex b s).cfg = s.cfg := rfl
@[simp] theorem enterHex_fs (b : BackupState) (s : State) : (enterHex b s).fs = .hex := rfl
@[simp] theorem enterHex_fsBackup (b : BackupState) (s : State) : (enterHex b s).fsBackup = b := rfl
@[simp] theorem enterHex_rxc (b : BackupState) (s : State) : (enterHex b s).rxc = Codec.init := rfl
@[simp] theorem enterHex_txtName (b : BackupState) (s : State) : (enterHex b s).txtName = s.txtName := rfl
@[simp] theorem enterHex_txtValue (b : BackupState) (s : State) : (enterHex b s).txtValue = s.txtValue := rfl
@[simp] theorem enterHex_txtRec (b : BackupState) (s : State) : (enterHex b s).txtRec = s.txtRec := rfl
@[simp] theorem enterHex_txtSum (b : BackupState) (s : State) : (enterHex b s).txtSum = s.txtSum := rfl
@[simp] theorem enterHex_q (b : BackupState) (s : State) : (enterHex b s).q = s.q := rfl
@[simp] theorem enterHex_qHead (b : BackupState) (s : State) : (enterHex b s).qHead = s.qHead := rfl
@[simp] theorem enterHex_qTxTime (b : BackupState) (s : State) : (enterHex b s).qTxTime = s.qTxTime := rfl
@[simp] theorem enterHex_connected (b : BackupState) (s : State) : (enterHex b s).connected = s.connected := rfl
@[simp] theorem enterHex_lastRx (b : BackupState) (s : State) : (enterHex b s).lastRx = s.lastRx := rfl
@[simp] theorem enterHex_sweepActive (b : BackupState) (s : State) : (enterHex b s).sweepActive = s.sweepActive := rfl
@[simp] theorem enterHex_sweepCursor (b : BackupState) (s : State) : (enterHex b s).sweepCursor = s.sweepCursor := rfl
@[simp] theorem enterHex_refused (b : BackupState) (s : State) : (enterHex b s).refused = s.refused := rfl
@[simp] theorem enterHex_ev (b : BackupState) (s : State) : (enterHex b s).ev = s.ev := rfl
@[simp] theorem enterHex_ret (b : BackupState) (s : State) : (enterHex b s).ret = s.ret := rfl
@[simp] theorem enterHex_lastNow (b : BackupState) (s : State) : (enterHex b s).lastNow = s.lastNow := rfl
@[simp] theorem enterHex_tickGap (b : BackupState) (s : State) : (enterHex b s).tickGap = s.tickGap := rfl
@[simp] theorem enterHex_inq (b : BackupState) (s : State) : (enterHex b s).inq = s.inq := rfl

@[simp] theorem resumeBackup_cfg (s : State) : (resumeBackup s).cfg = s.cfg := rfl
@[simp] theorem resumeBackup_fs (s : State) : (resumeBackup s).fs = s.fsBackup.toFrame := rfl
@[simp] theorem resumeBackup_fsBackup (s : State) : (resumeBackup s).fsBackup = .idle := rfl
@[simp] theorem resumeBackup_rxc (s : State) : (resumeBackup s).rxc = Codec.init := rfl
@[simp] theorem resumeBackup_txtName (s : State) : (resumeBackup s).txtName = s.txtName := rfl
@[simp] theorem resumeBackup_txtValue (s : State) : (resumeBackup s).txtValue = s.txtValue := rfl
@[simp] theorem resumeBackup_txtRec (s : State) : (resumeBackup s).txtRec = s.txtRec := rfl
@[simp] theorem resumeBackup_txtSum (s : State) : (resumeBackup s).txtSum = s.txtSum := rfl
@[simp] theorem resumeBackup_q (s : State) : (resumeBackup s).q = s.q := rfl
@[simp] theorem resumeBackup_qHead (s : State) : (resumeBackup s).qHead = s.qHead := rfl
@[simp] theorem resumeBackup_qTxTime (s : State) : (resumeBackup s).qTxTime = s.qTxTime := rfl
@[simp] theorem resumeBackup_connected (s : State) : (resumeBackup s).connected = s.connected := rfl
@[simp] theorem resumeBackup_lastRx (s : State) : (resumeBackup s).lastRx = s.lastRx := rfl
@[simp] theorem resumeBackup_sweepActive (s : State) : (resumeBackup s).sweepActive = s.sweepActive := rfl
@[simp] theorem resumeBackup_sweepCursor (s : State) : (resumeBackup s).sweepCursor = s.sweepCursor := rfl
@[simp] theorem resumeBackup_refused (s : State) : (resumeBackup s).refused = s.refused := rfl
@[simp] theorem resumeBackup_ev (s : State) : (resumeBackup s).ev = s.ev := rfl
@[simp] theorem resumeBackup_ret (s : State) : (resumeBackup s).ret = s.ret := rfl
@[simp] theorem resumeBackup_lastNow (s : State) : (resumeBackup s).lastNow = s.lastNow := rfl
@[simp] theorem resumeBackup_tickGap (s : State) : (resumeBackup s).tickGap = s.tickGap := rfl
@[simp] theorem resumeBackup_inq (s : State) : (resumeBackup s).inq = s.inq := rfl

@[simp] theorem startText_cfg (s : State) : (startText s).cfg = s.cfg := rfl
@[simp] theorem startText_fs (s : State) : (startText s).fs = .textName := rfl
@[simp] theorem startText_fsBackup (s : State) : (startText s).fsBackup = s.fsBackup := rfl
@[simp] theorem startText_rxc (s : State) : (startText s).rxc = s.rxc := rfl
@[simp] theorem startText_txtName (s : State) : (startText s).txtName = [] := rfl
@[simp] theorem startText_txtValue (s : State) : (startText s).txtValue = [] := rfl
@[simp] theorem startText_txtRec (s : State) : (startText s).txtRec = [] := rfl
@[simp] theorem startText_txtSum (s : State) : (startText s).txtSum = chLf := rfl
@[simp] theorem startText_q (s : State) : (startText s).q = s.q := rfl
@[simp] theorem startText_qHead (s : State) : (startText s).qHead = s.qHead := rfl
@[simp] theorem startText_qTxTime (s : State) : (startText s).qTxTime = s.qTxTime := rfl
@[simp] theorem startText_connected (s : State) : (startText s).connected = s.connected := rfl
@[simp] theorem startText_lastRx (s : State) : (startText s).lastRx = s.lastRx := rfl
@[simp] theorem startText_sweepActive (s : State) : (startText s).sweepActive = s.sweepActive := rfl
@[simp] theorem startText_sweepCursor (s : State) : (startText s).sweepCursor = s.sweepCursor := rfl
@[simp] theorem startText_refused (s : State) : (startText s).refused = s.refused := rfl
@[simp] theorem startText_ev (s : State) : (startText s).ev = s.ev := rfl
@[simp] theorem startText_ret (s : State) : (startText s).ret = s.ret := rfl
@[simp] theorem startText_lastNow (s : State) : (startText s).lastNow = s.lastNow := rfl
@[simp] theorem startText_tickGap (s : State) : (startText s).tickGap = s.tickGap := rfl
@[simp] theorem startText_inq (s : State) : (startText s).inq = s.inq := rfl

@[simp] theorem valueCr_cfg (s : State) : (valueCr s).cfg = s.cfg := rfl
@[simp] theorem valueCr_fs (s : State) : (valueCr s).fs = s.fs := rfl
@[simp] theorem valueCr_fsBackup (s : State) : (valueCr s).fsBackup = s.fsBackup := rfl
@[simp] theorem valueCr_rxc (s : State) : (valueCr s).rxc = s.rxc := rfl
@[simp] theorem valueCr_txtName (s : State) : (valueCr s).txtName = s.txtName := rfl
@[simp] theorem valueCr_txtValue (s : State) : (valueCr s).txtValue = s.txtValue := rfl
@[simp] theorem valueCr_txtRec (s : State) : (valueCr s).txtRec = s.txtRec := rfl
@[simp] theorem valueCr_txtSum (s : State) : (valueCr s).txtSum = s.txtSum + chCr := rfl
@[simp] theorem valueCr_q (s : State) : (valueCr s).q = s.q := rfl
@[simp] theorem valueCr_qHead (s : State) : (valueCr s).qHead = s.qHead := rfl
@[simp] theorem valueCr_qTxTime (s : State) : (valueCr s).qTxTime = s.qTxTime := rfl
@[simp] theorem valueCr_connected (s : State) : (valueCr s).connected = s.connected := rfl
@[simp] theorem valueCr_lastRx (s : State) : (valueCr s).lastRx = s.lastRx := rfl
@[simp] theorem valueCr_sweepActive (s : State) : (valueCr s).sweepActive = s.sweepActive := rfl
@[simp] theorem valueCr_sweepCursor (s : State) : (valueCr s).sweepCursor = s.sweepCursor := rfl
@[simp] theorem valueCr_refused (s : State) : (valueCr s).refused = s.refused := rfl
@[simp] theorem valueCr_ev (s : State) : (valueCr s).ev = s.ev := rfl
@[simp] theorem valueCr_ret (s : State) : (valueCr s).ret = s.ret := rfl
@[simp] theorem valueCr_lastNow (s : State) : (valueCr s).lastNow = s.lastNow := rfl
@[simp] theorem valueCr_tickGap (s : State) : (valueCr s).tickGap = s.tickGap := rfl
@[simp] theorem valueCr_inq (s : State) : (valueCr s).inq = s.inq := rfl

@[simp] theorem popHead_cfg (rest : List Slot) (s : State) : (popHead rest s).cfg = s.cfg := rfl
@[simp] theorem popHead_fs (rest : List Slot) (s : State) : (popHead rest s).fs = s.fs := rfl
@[simp] theorem popHead_fsBackup (rest : List Slot) (s : State) : (popHead rest s).fsBackup = s.fsBackup := rfl
@[simp] theorem popHead_rxc (rest : List Slot) (s : State) : (popHead rest s).rxc = s.rxc := rfl
@[simp] theorem popHead_txtName (rest : List Slot) (s : State) : (popHead rest s).txtName = s.txtName := rfl
@[simp] theorem popHead_txtValue (rest : List Slot) (s : State) : (popHead rest s).txtValue = s.txtValue := rfl
@[simp] theorem popHead_txtRec (rest : List Slot) (s : State) : (popHead rest s).txtRec = s.txtRec := rfl
@[simp] theorem popHead_txtSum (rest : List Slot) (s : State) : (popHead rest s).txtSum = s.txtSum := rfl
@[simp] theorem popHead_q (rest : List Slot) (s : State) : (popHead rest s).q = rest := rfl
@[simp] theorem popHead_qHead (rest : List Slot) (s : State) : (popHead rest s).qHead = (s.qHead + 1) % s.cfg.queueCap := rfl
@[simp] theorem popHead_qTxTime (rest : List Slot) (s : State) : (popHead rest s).qTxTime = s.qTxTime := rfl
@[simp] theorem popHead_connected (rest : List Slot) (s : State) : (popHead rest s).connected = s.connected := rfl
@[simp] theorem popHead_lastRx (rest : List Slot) (s : State) : (popHead rest s).lastRx = s.lastRx := rfl
@[simp] theorem popHead_sweepActive (rest : List Slot) (s : State) : (popHead rest s).sweepActive = s.sweepActive := rfl
@[simp] theorem popHead_sweepCursor (rest : List Slot) (s : State) : (popHead rest s).sweepCursor = s.sweepCursor := rfl
@[simp] theorem popHead_refused (rest : List Slot) (s : State) : (popHead rest s).refused = s.refused := rfl
@[simp] theorem popHead_ev (rest : List Slot) (s : State) : (popHead rest s).ev = s.ev := rfl
@[simp] theorem popHead_ret (rest : List Slot) (s : State) : (popHead rest s).ret = s.ret := rfl
@[simp] theorem popHead_lastNow (rest : List Slot) (s : State) : (popHead rest s).lastNow = s.lastNow := rfl
@[simp] theorem popHead_tickGap (rest : List Slot) (s : State) : (popHead rest s).tickGap = s.tickGap := rfl
@[simp] theorem popHead_inq (rest : List Slot) (s : State) : (popHead rest s).inq = s.inq := rfl

end Sys2Proof.Machine
end

