-- ==== Sys2Proof/Laws/Ops.lean ====
section
/-! SUPPORT. One lemma per shared operation that says once what it can do, so that no proof unfolds it: the case lemmas give its
result, the `_frame` lemmas name every field it can change. -/

namespace Sys2Proof.Machine

/-! ## Time -/

@[simp] theorem elapsed_self (t : Time) : elapsed t t = 0 := by simp [elapsed]

@[simp] theorem sinceLast_of_lastNow {s : State} {now : Time} (h : s.lastNow = some now) : s.sinceLast now = 0 := by
  simp [State.sinceLast, h]

theorem timersOk_iff {s : State} {now : Time} :
    s.timersOk now = true ↔
      (s.q ≠ [] → (now - s.qTxTime).toNat < 2 ^ 31) ∧ (s.connected = true → (now - s.lastRx).toNat < 2 ^ 31) := by
  simp only [State.timersOk, State.inFlight, Bool.and_eq_true, Bool.or_eq_true, decide_eq_true_eq, Bool.not_eq_true',
    Bool.not_not, List.isEmpty_iff, ← Bool.not_eq_true, imp_iff_not_or, ne_eq, not_not]
  rfl

/-- What an admitted `now` is (R346). -/
theorem nowOk_iff {s : State} {now : Time} :
    s.nowOk now = true ↔
      s.sinceLast now < 2 ^ 31 ∧ (s.q ≠ [] → (now - s.qTxTime).toNat < 2 ^ 31) ∧
      (s.connected = true → (now - s.lastRx).toNat < 2 ^ 31) := by
  rw [State.nowOk, Bool.and_eq_true, decide_eq_true_eq, timersOk_iff]

/-- A byte heard at `now` keeps `now` admitted: the link timer restarts, and the command timer runs as before. -/
theorem nowOk_keep {s t : State} {now : Time} (h : s.nowOk now = true) (hl : t.lastNow = some now) (hr : t.lastRx = now)
    (hq : t.q = s.q) (ht : t.qTxTime = s.qTxTime) : t.nowOk now = true := by
  rw [nowOk_iff] at *
  rw [sinceLast_of_lastNow hl, hq, ht, hr]
  exact ⟨by decide, h.2.1, by simp⟩

/-- Elapsed times add up without wrapping while both are below 2^31, so a timer that every accepted `now` found below 2^31
reads as true time (R346). -/
theorem elapsed_add {t0 p now : Time} (h : (elapsed t0 p).toNat < 2 ^ 31) (h' : (elapsed p now).toNat < 2 ^ 31) :
    (elapsed t0 now).toNat = (elapsed t0 p).toNat + (elapsed p now).toNat := by
  simp only [elapsed] at *
  bv_omega

theorem stamp_of_lastNow {s : State} {now : Time} (h : s.lastNow = some now) : stamp now s = s := by
  cases s; simp only [State.mk.injEq, stamp] at *
  subst h; simp [State.sinceLast]

theorem timed_ok {s : State} {now : Time} (h : s.nowOk now = true) (body : State → State) :
    timed now body s = body (stamp now s) := by simp [timed, h]

theorem timed_bad {s : State} {now : Time} (h : s.nowOk now = false) (body : State → State) :
    timed now body s = refuse s := by simp [timed, h]

/-! ## The ring -/

theorem transmitHead_cons {s : State} {r : Slot} {rest : List Slot} (h : s.q = r :: rest) (now : Time) :
    transmitHead now s = { s with ev := s.ev ++ [.tx (encodeFrame r.raw)], qTxTime := now } := by
  simp [transmitHead, h, emit]

theorem transmitHead_nil {s : State} (h : s.q = []) (now : Time) : transmitHead now s = s := by simp [transmitHead, h]

theorem transmitHead_frame (now : Time) (s : State) :
    transmitHead now s = { s with ev := (transmitHead now s).ev, qTxTime := (transmitHead now s).qTxTime } := by
  unfold transmitHead; split <;> rfl

theorem enqueue_full {s : State} (h : s.q.length = s.cfg.queueCap) (r : Slot) (now : Time) :
    enqueue r now s = (emit s (.resolved r.tag .queueFull none), false) := by simp [enqueue, h]

theorem enqueue_empty {s : State} (h : s.q = []) (hc : s.cfg.queueCap ≠ 0) (r : Slot) (now : Time) :
    enqueue r now s =
      ({ s with q := [r], ev := s.ev ++ [.tx (encodeFrame r.raw)], qTxTime := now }, true) := by
  have : ¬ 0 = s.cfg.queueCap := fun e => hc e.symm
  simp [enqueue, h, this, transmitHead, emit]

theorem enqueue_behind {s : State} (h : s.q ≠ []) (hc : s.q.length ≠ s.cfg.queueCap) (r : Slot) (now : Time) :
    enqueue r now s = ({ s with q := s.q ++ [r] }, true) := by
  simp [enqueue, hc, h]

theorem enqueue_frame (r : Slot) (now : Time) (s : State) :
    (enqueue r now s).1 = { s with
      q := (enqueue r now s).1.q, ev := (enqueue r now s).1.ev, qTxTime := (enqueue r now s).1.qTxTime } := by
  by_cases hf : s.q.length = s.cfg.queueCap
  · simp [enqueue_full hf, emit]
  · by_cases hq : s.q = []
    · have : s.cfg.queueCap ≠ 0 := fun e => hf (by simp [hq, e])
      simp [enqueue_empty hq this]
    · simp [enqueue_behind hq hf]

theorem sweepNext_key {s : State} {k : RegId} (h : s.cfg.pollKeys[s.sweepCursor]? = some k) (now : Time) :
    sweepNext now s = (enqueue (getSlot k) now { s with sweepCursor := s.sweepCursor + 1 }).1 := by
  simp [sweepNext, h]

theorem sweepNext_end {s : State} (h : s.cfg.pollKeys[s.sweepCursor]? = none) (now : Time) :
    sweepNext now s = { s with sweepActive := false } := by
  simp only [sweepNext, h]

theorem sweepNext_frame (now : Time) (s : State) :
    sweepNext now s = { s with
      q := (sweepNext now s).q, ev := (sweepNext now s).ev, qTxTime := (sweepNext now s).qTxTime
      sweepActive := (sweepNext now s).sweepActive, sweepCursor := (sweepNext now s).sweepCursor } := by
  cases h : s.cfg.pollKeys[s.sweepCursor]? with
  | none => simp [sweepNext_end h]
  | some k =>
    rw [sweepNext_key h, enqueue_frame]

theorem resolveHead_next {s : State} {r r' : Slot} {more : List Slot} (h : s.q = r :: r' :: more) (st : Status)
    (reply : Option (List Byte)) (now : Time) :
    resolveHead st reply now s = { s with
      q := r' :: more, qHead := (s.qHead + 1) % s.cfg.queueCap, qTxTime := now
      ev := s.ev ++ [.resolved r.tag st reply, .tx (encodeFrame r'.raw)] } := by
  simp [resolveHead, h, popHead, emit, transmitHead]

theorem resolveHead_last {s : State} {r : Slot} (h : s.q = [r]) (st : Status) (reply : Option (List Byte)) (now : Time) :
    resolveHead st reply now s =
      let s' := popHead [] (emit s (.resolved r.tag st reply))
      if s.sweepActive then sweepNext now s' else s' := by
  simp only [resolveHead, h] <;> rfl

theorem resolveHead_nil {s : State} (h : s.q = []) (st : Status) (reply : Option (List Byte)) (now : Time) :
    resolveHead st reply now s = s := by simp [resolveHead, h]

theorem resolveHead_frame (st : Status) (reply : Option (List Byte)) (now : Time) (s : State) :
    resolveHead st reply now s = { s with
      q := (resolveHead st reply now s).q, qHead := (resolveHead st reply now s).qHead
      ev := (resolveHead st reply now s).ev, qTxTime := (resolveHead st reply now s).qTxTime
      sweepActive := (resolveHead st reply now s).sweepActive
      sweepCursor := (resolveHead st reply now s).sweepCursor } := by
  match h : s.q with
  | [] => rw [resolveHead_nil h]
  | [r] =>
    rw [resolveHead_last h]
    simp only
    split
    · rw [sweepNext_frame]; simp [popHead, emit]
    · simp [popHead, emit]
  | r :: r' :: more => simp [resolveHead_next h]

theorem onHexReply_empty {s : State} (h : s.q = []) (raw : List Byte) (now : Time) : onHexReply raw now s = s := by
  simp [onHexReply, h]

theorem onHexReply_cons {s : State} {req : Slot} {rest : List Slot} (h : s.q = req :: rest) (raw : List Byte) (now : Time) :
    onHexReply raw now s =
      match replyStatus req raw with
      | none => s
      | some st => resolveHead st (some raw) now s := by
  simp only [onHexReply, h] <;> rfl

/-- Reply matching does nothing or resolves the head. -/
theorem onHexReply_cases (raw : List Byte) (now : Time) (s : State) :
    onHexReply raw now s = s ∨
    ∃ st, s.q ≠ [] ∧ onHexReply raw now s = resolveHead st (some raw) now s ∧ st ≠ .queueFull := by
  match h : s.q with
  | [] => simp [onHexReply_empty h]
  | req :: rest =>
    rw [onHexReply_cons h]
    cases hs : replyStatus req raw with
    | none => simp
    | some st =>
      refine .inr ⟨st, by simp, rfl, ?_⟩
      rintro rfl
      revert hs
      simp only [replyStatus, matchRegister]
      repeat' split
      all_goals simp

theorem onHexReply_frame (raw : List Byte) (now : Time) (s : State) :
    onHexReply raw now s = { s with
      q := (onHexReply raw now s).q, qHead := (onHexReply raw now s).qHead
      ev := (onHexReply raw now s).ev, qTxTime := (onHexReply raw now s).qTxTime
      sweepActive := (onHexReply raw now s).sweepActive
      sweepCursor := (onHexReply raw now s).sweepCursor } := by
  rcases onHexReply_cases raw now s with h | ⟨st, -, h, -⟩
  · rw [h]
  · rw [h, resolveHead_frame]

theorem maybeConnect_connected {s : State} (h : s.connected = true) (now : Time) : maybeConnect now s = s := by
  simp [maybeConnect, h]

theorem maybeConnect_quiet {s : State} (h : s.connected = false) (hc : (s.cfg.hexEnabled && s.cfg.indexNonempty) = false)
    (now : Time) : maybeConnect now s = { s with connected := true } := by
  simp only [maybeConnect, h, hc]; simp

theorem maybeConnect_sweep {s : State} (h : s.connected = false) (hc : (s.cfg.hexEnabled && s.cfg.indexNonempty) = true)
    (now : Time) :
    maybeConnect now s =
      (enqueue pingSlot now { s with connected := true, sweepActive := true, sweepCursor := 0 }).1 := by
  simp only [maybeConnect, h, hc]; simp

theorem maybeConnect_frame (now : Time) (s : State) :
    maybeConnect now s = { s with
      q := (maybeConnect now s).q, ev := (maybeConnect now s).ev, qTxTime := (maybeConnect now s).qTxTime
      connected := (maybeConnect now s).connected
      sweepActive := (maybeConnect now s).sweepActive, sweepCursor := (maybeConnect now s).sweepCursor } := by
  by_cases h : s.connected = true
  · simp [maybeConnect_connected h]
  · rw [Bool.not_eq_true] at h
    cases hc : (s.cfg.hexEnabled && s.cfg.indexNonempty) with
    | false => simp [maybeConnect_quiet h hc]
    | true => rw [maybeConnect_sweep h hc, enqueue_frame]

/-- Flushing resolves every slot in order and moves the head past them. -/
theorem flushQueue_eq (rs : List Slot) (s : State) (h : s.q = rs) :
    flushQueue rs s = { s with
      q := []
      qHead := (flushQueue rs s).qHead
      ev := s.ev ++ rs.map (fun r => .resolved r.tag .timeout none) } := by
  induction rs generalizing s with
  | nil => cases s; simp_all [flushQueue]
  | cons r rest ih =>
    rw [flushQueue, ih (popHead rest (emit s (.resolved r.tag .timeout none))) rfl]
    simp [popHead, emit, List.append_assoc]

theorem flushQueue_qHead (rs : List Slot) (s : State) (h : s.qHead < s.cfg.queueCap) :
    (flushQueue rs s).qHead = (s.qHead + rs.length) % s.cfg.queueCap := by
  induction rs generalizing s with
  | nil => simp [flushQueue, Nat.mod_eq_of_lt h]
  | cons r rest ih =>
    have hpos : 0 < s.cfg.queueCap := Nat.lt_of_le_of_lt (Nat.zero_le _) h
    rw [flushQueue, ih _ (by simpa using Nat.mod_lt _ hpos)]
    simp only [popHead_qHead, popHead_cfg, emit_qHead, emit_cfg, Nat.mod_add_mod, List.length_cons]
    congr 1; omega

/-- Taking the link down (R261). -/
theorem linkDown_eq (s : State) :
    linkDown s = { s with
      connected := false
      fs := .idle, fsBackup := .idle, rxc := Codec.init, txtName := [], txtValue := [], txtRec := [], txtSum := 0
      q := [], qHead := (linkDown s).qHead
      sweepActive := false, sweepCursor := 0
      ev := s.ev ++ s.q.map (fun r => .resolved r.tag .timeout none) ++ [.linkDown] } := by
  simp only [linkDown]
  rw [flushQueue_eq _ _ rfl]
  rfl

theorem linkDown_qHead {s : State} (h : s.qHead < s.cfg.queueCap) :
    (linkDown s).qHead = (s.qHead + s.q.length) % s.cfg.queueCap := by
  simp only [linkDown, emit_qHead]
  exact flushQueue_qHead _ _ (by exact h)

/-! ## The decoder -/

@[simp] theorem raise_resume (code : ErrorCode) (path : Path) (s : State) :
    raise code path .resume s = resumeBackup (emit s (.decodeError code path)) := rfl
@[simp] theorem raise_abortText (code : ErrorCode) (path : Path) (s : State) :
    raise code path .abortText s = textAbort (emit s (.decodeError code path)) := rfl
@[simp] theorem raise_resetDecoder (code : ErrorCode) (path : Path) (s : State) :
    raise code path .resetDecoder s = decoderReset (emit s (.decodeError code path)) := rfl

@[simp] theorem toFrame_ne_hex (b : BackupState) : b.toFrame ≠ .hex := by cases b <;> simp [BackupState.toFrame]

theorem exists_backup {f : FrameState} (h : f ≠ .hex) : ∃ b : BackupState, b.toFrame = f := by
  cases f
  · exact ⟨.idle, rfl⟩
  · exact absurd rfl h
  · exact ⟨.textName, rfl⟩
  · exact ⟨.textValue, rfl⟩
  · exact ⟨.textChecksum, rfl⟩

/-! Bytes of the TEXT states. -/

theorem endName_checksum {s : State} (h : s.txtName = checksumName) :
    endName s = { s with txtSum := s.txtSum + chTab, fs := .textChecksum } := by simp [endName, h]

theorem endName_other {s : State} (h : s.txtName ≠ checksumName) :
    endName s = { s with txtSum := s.txtSum + chTab, txtValue := [], fs := .textValue } := by simp [endName, h]

theorem nameByte_full {s : State} (h : s.txtName.length = s.cfg.textNameMax) (b : Byte) :
    nameByte b s = textAbort (emit s (.decodeError .nameOverflow .text)) := by simp [nameByte, h]

theorem nameByte_store {s : State} (h : s.txtName.length ≠ s.cfg.textNameMax) (b : Byte) :
    nameByte b s = { s with txtSum := s.txtSum + b, txtName := s.txtName ++ [b] } := by simp [nameByte, h]

theorem endRecord_full {s : State} (h : s.txtRec.length = s.cfg.textRecordsMax) :
    endRecord s = textAbort (emit s (.decodeError .recordOverflow .text)) := by simp [endRecord, h]

theorem endRecord_store {s : State} (h : s.txtRec.length ≠ s.cfg.textRecordsMax) :
    endRecord s = { s with
      txtSum := s.txtSum + chLf, txtRec := s.txtRec ++ [{ name := s.txtName, value := s.txtValue }]
      txtName := [], txtValue := [], fs := .textName } := by simp [endRecord, h]

theorem valueByte_full {s : State} (h : s.txtValue.length = s.cfg.textValueMax) (b : Byte) :
    valueByte b s = textAbort (emit s (.decodeError .valueOverflow .text)) := by simp [valueByte, h]

theorem valueByte_store {s : State} (h : s.txtValue.length ≠ s.cfg.textValueMax) (b : Byte) :
    valueByte b s = { s with txtSum := s.txtSum + b, txtValue := s.txtValue ++ [b] } := by simp [valueByte, h]

theorem checksumByte_zero {s : State} {b : Byte} (h : s.txtSum + b = 0) :
    checksumByte b s = (textAbort (emit s (.textFrame s.txtRec)), .textFrame s.txtRec) := by
  simp only [checksumByte, if_pos h] <;> rfl

theorem checksumByte_nonzero {s : State} {b : Byte} (h : s.txtSum + b ≠ 0) :
    checksumByte b s = (textAbort (emit s (.decodeError .checksum .text)), .none) := by
  simp only [checksumByte, if_neg h] <;> rfl

/-- What the decoder may do to everything outside it: nothing but append events. -/
structure DecoderOnly (s t : State) : Prop where
  cfg : t.cfg = s.cfg
  q : t.q = s.q
  qHead : t.qHead = s.qHead
  qTxTime : t.qTxTime = s.qTxTime
  connected : t.connected = s.connected
  lastRx : t.lastRx = s.lastRx
  sweepActive : t.sweepActive = s.sweepActive
  sweepCursor : t.sweepCursor = s.sweepCursor
  refused : t.refused = s.refused
  ret : t.ret = s.ret
  lastNow : t.lastNow = s.lastNow
  tickGap : t.tickGap = s.tickGap
  inq : t.inq = s.inq

/-- Everything a byte can do in the decoder: outside it nothing but events, one event at most, and that event says what
`fd_step` returned. -/
structure ByteFrame (s : State) (r : State × FdResult) : Prop where
  only : DecoderOnly s r.1
  event :
    (∃ raw, r.2 = .hexFrame raw ∧ s.fs = .hex ∧ r.1.ev = s.ev ++ [.hexFrame raw]) ∨
    (∃ recs, r.2 = .textFrame recs ∧ s.fs = .textChecksum ∧ r.1.ev = s.ev ++ [.textFrame recs]) ∨
    (r.2 = .none ∧ (r.1.ev = s.ev ∨ ∃ code path, r.1.ev = s.ev ++ [.decodeError code path]))

theorem decoderOnly_raise (code : ErrorCode) (path : Path) (r : Recovery) (s : State) :
    DecoderOnly s (raise code path r s) := by
  cases r <;> exact ⟨rfl, rfl, rfl, rfl, rfl, rfl, rfl, rfl, rfl, rfl, rfl, rfl, rfl⟩

theorem raise_ev (code : ErrorCode) (path : Path) (r : Recovery) (s : State) :
    (raise code path r s).ev = s.ev ++ [.decodeError code path] := by
  cases r <;> rfl

theorem byteFrame_quiet {s t : State} (h : DecoderOnly s t) (he : t.ev = s.ev) : ByteFrame s (t, .none) :=
  ⟨h, .inr (.inr ⟨rfl, .inl he⟩)⟩

theorem byteFrame_raise (code : ErrorCode) (path : Path) (r : Recovery) (s : State) :
    ByteFrame s (raise code path r s, .none) :=
  ⟨decoderOnly_raise code path r s, .inr (.inr ⟨rfl, .inr ⟨code, path, raise_ev code path r s⟩⟩)⟩

theorem nameByte_frame (b : Byte) (s : State) : ByteFrame s (nameByte b s, .none) := by
  unfold nameByte; split
  · exact byteFrame_raise _ _ _ _
  · exact byteFrame_quiet ⟨rfl, rfl, rfl, rfl, rfl, rfl, rfl, rfl, rfl, rfl, rfl, rfl, rfl⟩ rfl

theorem valueByte_frame (b : Byte) (s : State) : ByteFrame s (valueByte b s, .none) := by
  unfold valueByte; split
  · exact byteFrame_raise _ _ _ _
  · exact byteFrame_quiet ⟨rfl, rfl, rfl, rfl, rfl, rfl, rfl, rfl, rfl, rfl, rfl, rfl, rfl⟩ rfl

theorem endRecord_frame (s : State) : ByteFrame s (endRecord s, .none) := by
  unfold endRecord; split
  · exact byteFrame_raise _ _ _ _
  · exact byteFrame_quiet ⟨rfl, rfl, rfl, rfl, rfl, rfl, rfl, rfl, rfl, rfl, rfl, rfl, rfl⟩ rfl

theorem endName_frame (s : State) : ByteFrame s (endName s, .none) := by
  unfold endName; split <;>
    exact byteFrame_quiet ⟨rfl, rfl, rfl, rfl, rfl, rfl, rfl, rfl, rfl, rfl, rfl, rfl, rfl⟩ rfl

theorem checksumByte_frame {s : State} (h : s.fs = .textChecksum) (b : Byte) : ByteFrame s (checksumByte b s) := by
  by_cases hs : s.txtSum + b = 0
  · rw [checksumByte_zero hs]
    exact ⟨⟨rfl, rfl, rfl, rfl, rfl, rfl, rfl, rfl, rfl, rfl, rfl, rfl, rfl⟩, .inr (.inl ⟨_, rfl, h, rfl⟩)⟩
  · rw [checksumByte_nonzero hs]; exact byteFrame_raise .checksum .text .abortText s

theorem hexOutcome_frame {s : State} (h : s.fs = .hex) (r : Codec × DecodeResult) : ByteFrame s (hexOutcome r s) := by
  obtain ⟨k, d⟩ := r
  have only : DecoderOnly s (hexOutcome (k, d) s).1 := by
    cases d <;> exact ⟨rfl, rfl, rfl, rfl, rfl, rfl, rfl, rfl, rfl, rfl, rfl, rfl, rfl⟩
  refine ⟨only, ?_⟩
  cases d with
  | valid raw => exact .inl ⟨raw, rfl, h, rfl⟩
  | checksumError => exact .inr (.inr ⟨rfl, .inr ⟨_, _, rfl⟩⟩)
  | codingError => exact .inr (.inr ⟨rfl, .inr ⟨_, _, rfl⟩⟩)
  | overflow => exact .inr (.inr ⟨rfl, .inr ⟨_, _, rfl⟩⟩)
  | terminated _ => exact .inr (.inr ⟨rfl, .inr ⟨_, _, rfl⟩⟩)
  | _ => exact .inr (.inr ⟨rfl, .inl rfl⟩)

theorem fdStep_frame (b : Byte) (s : State) : ByteFrame s (fdStep b s) := by
  cases hf : s.fs <;> simp only [fdStep, hf]
  case idle =>
    simp only [fdIdle]
    repeat' split
    all_goals exact byteFrame_quiet ⟨rfl, rfl, rfl, rfl, rfl, rfl, rfl, rfl, rfl, rfl, rfl, rfl, rfl⟩ rfl
  case hex => exact hexOutcome_frame hf _
  case textName =>
    simp only [fdName]
    split
    · exact byteFrame_quiet ⟨rfl, rfl, rfl, rfl, rfl, rfl, rfl, rfl, rfl, rfl, rfl, rfl, rfl⟩ rfl
    · split
      · exact endName_frame s
      · exact nameByte_frame b s
  case textValue =>
    simp only [fdValue]
    split
    · exact byteFrame_quiet ⟨rfl, rfl, rfl, rfl, rfl, rfl, rfl, rfl, rfl, rfl, rfl, rfl, rfl⟩ rfl
    · split
      · exact byteFrame_quiet ⟨rfl, rfl, rfl, rfl, rfl, rfl, rfl, rfl, rfl, rfl, rfl, rfl, rfl⟩ rfl
      · split
        · exact endRecord_frame s
        · exact valueByte_frame b s
  case textChecksum =>
    simp only [fdChecksum]
    split
    · exact byteFrame_quiet ⟨rfl, rfl, rfl, rfl, rfl, rfl, rfl, rfl, rfl, rfl, rfl, rfl, rfl⟩ rfl
    · exact checksumByte_frame hf b

/-! The class rows have the same frame, whatever byte their operation carries. -/

theorem mapColon_frame (s : State) : ByteFrame s (mapColon s) := by
  cases hf : s.fs <;> simp only [mapColon, hf]
  case hex => exact hexOutcome_frame hf _
  all_goals exact byteFrame_quiet ⟨rfl, rfl, rfl, rfl, rfl, rfl, rfl, rfl, rfl, rfl, rfl, rfl, rfl⟩ rfl

theorem mapLf_frame (s : State) : ByteFrame s (mapLf s) := by
  cases hf : s.fs <;> simp only [mapLf, hf]
  case idle => split <;> exact byteFrame_quiet ⟨rfl, rfl, rfl, rfl, rfl, rfl, rfl, rfl, rfl, rfl, rfl, rfl, rfl⟩ rfl
  case hex => exact hexOutcome_frame hf _
  case textName => exact nameByte_frame _ s
  case textValue => exact endRecord_frame s
  case textChecksum => exact checksumByte_frame hf _

theorem mapTab_frame (s : State) : ByteFrame s (mapTab s) := by
  cases hf : s.fs <;> simp only [mapTab, hf]
  case idle => exact byteFrame_quiet ⟨rfl, rfl, rfl, rfl, rfl, rfl, rfl, rfl, rfl, rfl, rfl, rfl, rfl⟩ rfl
  case hex => exact hexOutcome_frame hf _
  case textName => exact endName_frame s
  case textValue => exact valueByte_frame _ s
  case textChecksum => exact checksumByte_frame hf _

theorem mapCr_frame (s : State) : ByteFrame s (mapCr s) := by
  cases hf : s.fs <;> simp only [mapCr, hf]
  case hex => exact hexOutcome_frame hf _
  case textName => exact nameByte_frame _ s
  case textChecksum => exact checksumByte_frame hf _
  all_goals exact byteFrame_quiet ⟨rfl, rfl, rfl, rfl, rfl, rfl, rfl, rfl, rfl, rfl, rfl, rfl, rfl⟩ rfl

theorem mapNul_frame (s : State) : ByteFrame s (mapNul s) := by
  cases hf : s.fs <;> simp only [mapNul, hf]
  case idle => exact byteFrame_quiet ⟨rfl, rfl, rfl, rfl, rfl, rfl, rfl, rfl, rfl, rfl, rfl, rfl, rfl⟩ rfl
  case hex => exact hexOutcome_frame hf _
  case textName => exact nameByte_frame _ s
  case textValue => exact valueByte_frame _ s
  case textChecksum => exact checksumByte_frame hf _

theorem mapHexdigit_frame (b : Byte) (s : State) : ByteFrame s (mapHexdigit b s) := by
  cases hf : s.fs <;> simp only [mapHexdigit, hf]
  case idle => exact byteFrame_quiet ⟨rfl, rfl, rfl, rfl, rfl, rfl, rfl, rfl, rfl, rfl, rfl, rfl, rfl⟩ rfl
  case hex => exact hexOutcome_frame hf _
  case textName => exact nameByte_frame _ s
  case textValue => exact valueByte_frame _ s
  case textChecksum => exact checksumByte_frame hf _

theorem mapOther_frame (b : Byte) (s : State) : ByteFrame s (mapOther b s) := by
  cases hf : s.fs <;> simp only [mapOther, hf]
  case idle => exact byteFrame_quiet ⟨rfl, rfl, rfl, rfl, rfl, rfl, rfl, rfl, rfl, rfl, rfl, rfl, rfl⟩ rfl
  case hex => exact hexOutcome_frame hf _
  case textName => exact nameByte_frame _ s
  case textValue => exact valueByte_frame _ s
  case textChecksum => exact checksumByte_frame hf _

theorem mapHexdigitLower_frame (b : Byte) (s : State) : ByteFrame s (mapHexdigitLower b s) := by
  unfold mapHexdigitLower; split
  · exact mapHexdigit_frame b s
  · exact mapOther_frame b s

/-! ## Delivering a byte -/

theorem deliver_none {now : Time} {fd : State → State × FdResult} {s t : State}
    (h : fd (giveBack none { s with lastRx := now }) = (t, .none)) : deliver now fd s = t := by
  simp [deliver, h]

theorem deliver_hexFrame {now : Time} {fd : State → State × FdResult} {s t : State} {raw : List Byte}
    (h : fd (giveBack none { s with lastRx := now }) = (t, .hexFrame raw)) :
    deliver now fd s = maybeConnect now (onHexReply raw now t) := by
  simp [deliver, h]

theorem deliver_textFrame {now : Time} {fd : State → State × FdResult} {s t : State} {recs : List TextRecord}
    (h : fd (giveBack none { s with lastRx := now }) = (t, .textFrame recs)) :
    deliver now fd s = maybeConnect now t := by
  simp [deliver, h]

/-! An accepted byte, by what `fd_step` answers. -/

theorem rxByte_none {b : Byte} {now : Time} {s t : State} (h : s.nowOk now = true)
    (hf : fdStep b (giveBack none { stamp now s with lastRx := now }) = (t, .none)) : rxByte b now s = t := by
  rw [rxByte, timed_ok h]; exact deliver_none hf

theorem rxByte_hexFrame {b : Byte} {now : Time} {s t : State} {raw : List Byte} (h : s.nowOk now = true)
    (hf : fdStep b (giveBack none { stamp now s with lastRx := now }) = (t, .hexFrame raw)) :
    rxByte b now s = maybeConnect now (onHexReply raw now t) := by
  rw [rxByte, timed_ok h]; exact deliver_hexFrame hf

theorem rxByte_textFrame {b : Byte} {now : Time} {s t : State} {recs : List TextRecord} (h : s.nowOk now = true)
    (hf : fdStep b (giveBack none { stamp now s with lastRx := now }) = (t, .textFrame recs)) :
    rxByte b now s = maybeConnect now t := by
  rw [rxByte, timed_ok h]; exact deliver_textFrame hf

/-! ## The running timers -/

/-- What the ring operations do to the command timer: with a request in flight after, it restarted at `now`, or it runs as
before. -/
def TimerKept (now : Time) (s t : State) : Prop := t.q ≠ [] → t.qTxTime = now ∨ (s.q ≠ [] ∧ t.qTxTime = s.qTxTime)

theorem TimerKept.refl (now : Time) (s : State) : TimerKept now s s := fun h => .inr ⟨h, rfl⟩

theorem TimerKept.trans {now : Time} {s t u : State} (h : TimerKept now s t) (h' : TimerKept now t u) : TimerKept now s u := by
  intro hu
  obtain h1 | ⟨h1, h2⟩ := h' hu
  · exact .inl h1
  · exact (h h1).imp h2.trans (fun ⟨h3, h4⟩ => ⟨h3, h2.trans h4⟩)

theorem enqueue_timer (r : Slot) (now : Time) (s : State) : TimerKept now s (enqueue r now s).1 := by
  by_cases hf : s.q.length = s.cfg.queueCap
  · rw [enqueue_full hf]; exact .refl now s
  · by_cases hq : s.q = []
    · rw [enqueue_empty hq (fun e => hf (by simp [hq, e]))]; exact fun _ => .inl rfl
    · rw [enqueue_behind hq hf]; exact fun _ => .inr ⟨hq, rfl⟩

theorem sweepNext_timer (now : Time) (s : State) : TimerKept now s (sweepNext now s) := by
  cases hk : s.cfg.pollKeys[s.sweepCursor]? with
  | none => rw [sweepNext_end hk]; exact .refl now s
  | some k => rw [sweepNext_key hk]; exact enqueue_timer (getSlot k) now { s with sweepCursor := s.sweepCursor + 1 }

theorem resolveHead_timer (st : Status) (reply : Option (List Byte)) (now : Time) (s : State) :
    TimerKept now s (resolveHead st reply now s) := by
  match hq : s.q with
  | [] => rw [resolveHead_nil hq]; exact .refl now s
  | [r] =>
    rw [resolveHead_last hq]
    have h0 : TimerKept now s (popHead [] (emit s (.resolved r.tag st reply))) := fun h => absurd rfl h
    dsimp only
    split
    · exact h0.trans (sweepNext_timer now _)
    · exact h0
  | r :: r' :: more => rw [resolveHead_next hq]; exact fun _ => .inl rfl

theorem onHexReply_timer (raw : List Byte) (now : Time) (s : State) : TimerKept now s (onHexReply raw now s) := by
  obtain e | ⟨st, -, e, -⟩ := onHexReply_cases raw now s <;> rw [e]
  · exact .refl now s
  · exact resolveHead_timer _ _ _ _

theorem maybeConnect_timer (now : Time) (s : State) : TimerKept now s (maybeConnect now s) := by
  by_cases hc : s.connected = true
  · rw [maybeConnect_connected hc]; exact .refl now s
  · rw [Bool.not_eq_true] at hc
    cases hx : (s.cfg.hexEnabled && s.cfg.indexNonempty) with
    | false => rw [maybeConnect_quiet hc hx]; exact .refl now s
    | true =>
      rw [maybeConnect_sweep hc hx]
      exact enqueue_timer pingSlot now { s with connected := true, sweepActive := true, sweepCursor := 0 }

/-- A delivered byte restarts the link timer, whatever the decoder makes of it. -/
theorem deliver_timer (now : Time) {fd : State → State × FdResult} (hfd : ∀ x, ByteFrame x (fd x)) (s : State) :
    TimerKept now s (deliver now fd s) ∧ (deliver now fd s).lastRx = now ∧ (deliver now fd s).lastNow = s.lastNow := by
  obtain ⟨hd, h⟩ := hfd (giveBack none { s with lastRx := now })
  have base : TimerKept now s (fd (giveBack none { s with lastRx := now })).1 :=
    fun h => .inr ⟨by rw [hd.q] at h; exact h, hd.qTxTime⟩
  obtain ⟨raw, hr, -⟩ | ⟨recs, hr, -⟩ | ⟨hr, -⟩ := h
  · rw [deliver_hexFrame (Prod.ext rfl hr)]
    refine ⟨(base.trans (onHexReply_timer raw now _)).trans (maybeConnect_timer now _), ?_⟩
    rw [maybeConnect_frame, onHexReply_frame]; exact ⟨hd.lastRx, hd.lastNow⟩
  · rw [deliver_textFrame (Prod.ext rfl hr)]
    refine ⟨base.trans (maybeConnect_timer now _), ?_⟩
    rw [maybeConnect_frame]; exact ⟨hd.lastRx, hd.lastNow⟩
  · rw [deliver_none (Prod.ext rfl hr)]; exact ⟨base, hd.lastRx, hd.lastNow⟩

/-- A `now` that one byte was accepted at is admitted for the next byte too. -/
theorem rxByte_nowOk (b : Byte) {now : Time} {s : State} (h : s.nowOk now = true) : (rxByte b now s).nowOk now = true := by
  rw [rxByte, timed_ok h]
  obtain ⟨h1, h2, h3⟩ := deliver_timer now (fdStep_frame b) (stamp now s)
  rw [nowOk_iff] at *
  rw [sinceLast_of_lastNow (h3.trans rfl), h2]
  refine ⟨by decide, fun hq => ?_, by simp⟩
  obtain e | ⟨hq', e⟩ := h1 hq
  · rw [e]; simp
  · rw [e]; exact h.2.1 hq'

/-! ## Feeding bytes -/

@[simp] theorem feed_nil (now : Time) (s : State) : feed now [] s = s := rfl
@[simp] theorem feed_cons (now : Time) (b : Byte) (bs : List Byte) (s : State) :
    feed now (b :: bs) s = feed now bs (rxByte b now s) := rfl

theorem feed_append (now : Time) (xs ys : List Byte) (s : State) : feed now (xs ++ ys) s = feed now ys (feed now xs s) := by
  induction xs generalizing s with
  | nil => rfl
  | cons b bs ih => simp [ih]

/-! ## Every operation -/

/-- What performing an operation can be, said once: a received byte, a fed frame, a request, a tick, or one of the plain ones. -/
inductive Effect (s : State) : Instr → State → Prop where
  | byte {i : Instr} (now : Time) (fd : State → State × FdResult) (h : ∀ x, ByteFrame x (fd x)) :
      Effect s i (timed now (deliver now fd) s)
  | frame {i : Instr} (raw : List Byte) (now : Time) : Effect s i (feedHex raw now s)
  | ask {i : Instr} (cmd : Byte) (reg : Option RegId) (payload : List Byte) (tag : Tag) (now : Time) :
      Effect s i (request cmd reg payload tag now s)
  | tick (now : Time) : Effect s (.tick now) (tick now s)
  | codecEncode (raw : List Byte) : Effect s (.codecEncode raw) (giveBack none (emit s (encodeEvent s.cfg raw)))
  | codecReencode (chars : List Byte) :
      Effect s (.codecReencode chars) (giveBack none (emit s (reencodeEvent s.cfg chars)))
  | isConnected : Effect s .isConnected (giveBack (some s.connected) s)
  | reset : Effect s .reset (resetBlock s)
  | reservedOp : Effect s .reservedOp (refuse s)

theorem exec_effect {i : Instr} {s t : State} (h : exec i s = .next t) : Effect s i t := by
  cases i <;> cases h
  case rxByte b now => exact .byte now _ (fdStep_frame b)
  case tick now => exact .tick now
  case codecEncode raw => exact .codecEncode raw
  case codecReencode chars => exact .codecReencode chars
  case isConnected => exact .isConnected
  case reset => exact .reset
  case reservedOp => exact .reservedOp
  case rxColon now => exact .byte now _ mapColon_frame
  case rxLf now => exact .byte now _ mapLf_frame
  case rxTab now => exact .byte now _ mapTab_frame
  case rxCr now => exact .byte now _ mapCr_frame
  case rxNul now => exact .byte now _ mapNul_frame
  case rxHexdigit b now => exact .byte now _ (mapHexdigit_frame b)
  case rxHexdigitLower b now => exact .byte now _ (mapHexdigitLower_frame b)
  case rxOther b now => exact .byte now _ (mapOther_frame b)
  all_goals first | exact .ask _ _ _ _ _ | exact .frame _ _

end Sys2Proof.Machine
end

