-- ==== Sys2Proof/Laws/PerInstr.lean ====
section
/-! SUPPORT. The family OpByte: the first byte of each operation's encoding is its selector (30_encoding.md R121), or the received
byte itself where that is no selector (log 2).  One lemma per constructor of Instr. -/

namespace Sys2Proof.Laws.OpByte

/-- A received byte stands for itself, unless it is a selector's value: then selector 0, RX_BYTE, introduces it. -/
def ofByte (b : Byte) : Byte := if b.toNat < 8 then 0x00 else b

/-- The first byte of an operation. -/
def first : Instr → Byte
  | .rxByte _ _ => 0x00
  | .tick _ => 0x01
  | .request _ _ _ _ _ => 0x02
  | .codecEncode _ => 0x03
  | .codecReencode _ => 0x04
  | .isConnected => 0x05
  | .reset => 0x06
  | .reservedOp => 0x07
  | .rxColon _ => 0x3A
  | .rxLf _ => 0x0A
  | .rxTab _ => 0x09
  | .rxCr _ => 0x0D
  | .rxNul _ => 0x00
  | .rxHexdigit b _ => ofByte b
  | .rxHexdigitLower b _ => ofByte b
  | .rxOther b _ => ofByte b
  | .reqPing _ _ _ _ => 0x02
  | .reqAppVersion _ _ _ _ => 0x02
  | .reqProductId _ _ _ _ => 0x02
  | .reqRestart _ _ _ _ => 0x02
  | .reqGet _ _ _ _ => 0x02
  | .reqSet _ _ _ _ => 0x02
  | .repDone _ _ => 0x00
  | .repUnknown _ _ => 0x00
  | .repError _ _ => 0x00
  | .repPingResp _ _ => 0x00
  | .repGet _ _ => 0x00
  | .repSet _ _ => 0x00
  | .repAsync _ _ => 0x00
  | .repUnrecognised _ _ _ => 0x00

/-- What is stated of every operation. -/
def Statement (i : Instr) : Prop := (encode i).head? = some (first i)

theorem encodeRx_head (b : Byte) (now : Time) : (encodeRx b now).head? = some (ofByte b) := by
  unfold encodeRx ofByte; split <;> rfl

theorem rxByte (b : Byte) (now : Time) : Statement (.rxByte b now) := rfl
theorem tick (now : Time) : Statement (.tick now) := rfl
theorem request (cmd : Byte) (reg : Option RegId) (payload : List Byte) (tag : Tag) (now : Time) :
    Statement (.request cmd reg payload tag now) := rfl
theorem codecEncode (raw : List Byte) : Statement (.codecEncode raw) := rfl
theorem codecReencode (chars : List Byte) : Statement (.codecReencode chars) := rfl
theorem isConnected : Statement .isConnected := rfl
theorem reset : Statement .reset := rfl
theorem reservedOp : Statement .reservedOp := rfl
theorem rxColon (now : Time) : Statement (.rxColon now) := rfl
theorem rxLf (now : Time) : Statement (.rxLf now) := rfl
theorem rxTab (now : Time) : Statement (.rxTab now) := rfl
theorem rxCr (now : Time) : Statement (.rxCr now) := rfl
theorem rxNul (now : Time) : Statement (.rxNul now) := rfl
theorem rxHexdigit (b : Byte) (now : Time) : Statement (.rxHexdigit b now) := encodeRx_head b now
theorem rxHexdigitLower (b : Byte) (now : Time) : Statement (.rxHexdigitLower b now) := encodeRx_head b now
theorem rxOther (b : Byte) (now : Time) : Statement (.rxOther b now) := encodeRx_head b now
theorem reqPing (reg : Option RegId) (payload : List Byte) (tag : Tag) (now : Time) :
    Statement (.reqPing reg payload tag now) := rfl
theorem reqAppVersion (reg : Option RegId) (payload : List Byte) (tag : Tag) (now : Time) :
    Statement (.reqAppVersion reg payload tag now) := rfl
theorem reqProductId (reg : Option RegId) (payload : List Byte) (tag : Tag) (now : Time) :
    Statement (.reqProductId reg payload tag now) := rfl
theorem reqRestart (reg : Option RegId) (payload : List Byte) (tag : Tag) (now : Time) :
    Statement (.reqRestart reg payload tag now) := rfl
theorem reqGet (reg : Option RegId) (payload : List Byte) (tag : Tag) (now : Time) :
    Statement (.reqGet reg payload tag now) := rfl
theorem reqSet (reg : Option RegId) (payload : List Byte) (tag : Tag) (now : Time) :
    Statement (.reqSet reg payload tag now) := rfl
theorem repDone (rest : List Byte) (now : Time) : Statement (.repDone rest now) := rfl
theorem repUnknown (rest : List Byte) (now : Time) : Statement (.repUnknown rest now) := rfl
theorem repError (rest : List Byte) (now : Time) : Statement (.repError rest now) := rfl
theorem repPingResp (rest : List Byte) (now : Time) : Statement (.repPingResp rest now) := rfl
theorem repGet (rest : List Byte) (now : Time) : Statement (.repGet rest now) := rfl
theorem repSet (rest : List Byte) (now : Time) : Statement (.repSet rest now) := rfl
theorem repAsync (rest : List Byte) (now : Time) : Statement (.repAsync rest now) := rfl
theorem repUnrecognised (code : Byte) (rest : List Byte) (now : Time) : Statement (.repUnrecognised code rest now) := rfl

end Sys2Proof.Laws.OpByte
end

