-- ==== Sys2Proof/Tests/Slice0.lean ====
section
/-! SUPPORT. The model's own tests: well-formedness refuses each kind of ill-formed term, every constructor decodes from a word
written out from the spec's tables (operand layout: logs 1, 2), one small step per operation with the outcome 95_test_vectors.md
gives, and for every statement with hypotheses a concrete case that meets them all. -/

namespace Sys2Proof.Tests

open Sys2Proof.Machine Sys2Proof.Claims

/-! ## Helpers -/

/-- The reset state with the named decoder part. -/
def text (fs : FrameState) (name value : List Byte) (recs : List TextRecord) (sum : Byte) : State :=
  { State.reset with fs := fs, txtName := name, txtValue := value, txtRec := recs, txtSum := sum }

/-- In `HEX`, with the codec as given. -/
def hex (backup : BackupState) (raw : List Byte) (phase : Phase) (hi : Nibble) (sum : Byte) : State :=
  { State.reset with fs := .hex, fsBackup := backup, rxc := { raw := raw, phase := phase, hi := hi, sum := sum } }

/-- Requests in the ring, the first transmitted at time 0. -/
def pending (q : List Slot) : State := { State.reset with q := q }

/-- Connected at time 0. -/
def linked : State := { State.reset with connected := true }

def slotGet (tag : BitVec 32) : Slot :=
  { raw := [0x07, 0x01, 0x22, 0x00], cmd := 0x07, reg := some 0x2201, tag := .host tag }

def slotSet (tag : BitVec 32) : Slot :=
  { raw := [0x08, 0x01, 0x22, 0x00, 0x05], cmd := 0x08, reg := some 0x2201, tag := .host tag }

def slotPing (tag : BitVec 32) : Slot := { raw := [0x01], cmd := 0x01, reg := none, tag := .host tag }

/-- The state after an operation. -/
def after (i : Instr) (s : State) : State :=
  match exec i s with
  | .next t => t
  | .fault _ => s
  | .refused _ => s

/-! ## WellFormed refuses -/

theorem test_wf_long_list : fitsLength (List.replicate (2 ^ 16) 0) = false := by
  unfold fitsLength; rw [List.length_replicate]; decide
theorem test_wf_hexdigit_class : (Instr.rxHexdigit 0x47 0).wf = false := by decide
theorem test_wf_lower_class : (Instr.rxHexdigitLower 0x67 0).wf = false := by decide
theorem test_wf_other_class : (Instr.rxOther 0x3A 0).wf = false := by decide
theorem test_wf_unrecognised_code : (Instr.repUnrecognised 0x0A [] 0).wf = false := by decide

/-! ## Decoding -/

theorem test_decode_rxByte : decode [0x00, 0, 0x41, 1, 0, 0, 0] = .ok (.rxByte 0x41 1, []) := by decide
theorem test_decode_tick : decode [0x01, 0x02, 0x01, 0, 0x80] = .ok (.tick 0x80000102, []) := by decide
theorem test_decode_request :
    decode [0x02, 0, 0x08, 1, 0x01, 0x22, 1, 0, 0x05, 0, 9, 0, 0, 0, 4, 0, 0, 0]
      = .ok (.request 0x08 (some 0x2201) [0x05] (.host 9) 4, []) := by decide
theorem test_decode_codecEncode : decode [0x03, 2, 0, 0xAA, 0xBB] = .ok (.codecEncode [0xAA, 0xBB], []) := by decide
theorem test_decode_codecReencode : decode [0x04, 1, 0, 0x3A] = .ok (.codecReencode [0x3A], []) := by decide
theorem test_decode_isConnected : decode [0x05, 0xEE] = .ok (.isConnected, [0xEE]) := by decide
theorem test_decode_reset : decode [0x06] = .ok (.reset, []) := by decide
theorem test_decode_reservedOp : decode [0x07] = .ok (.reservedOp, []) := by decide
theorem test_decode_rxColon : decode [0x3A, 1, 0, 0, 0] = .ok (.rxColon 1, []) := by decide
theorem test_decode_rxLf : decode [0x0A, 1, 0, 0, 0] = .ok (.rxLf 1, []) := by decide
theorem test_decode_rxTab : decode [0x09, 1, 0, 0, 0] = .ok (.rxTab 1, []) := by decide
theorem test_decode_rxCr : decode [0x0D, 1, 0, 0, 0] = .ok (.rxCr 1, []) := by decide
theorem test_decode_rxNul : decode [0x00, 1, 0x00, 1, 0, 0, 0] = .ok (.rxNul 1, []) := by decide
theorem test_decode_rxHexdigit : decode [0x46, 1, 0, 0, 0] = .ok (.rxHexdigit 0x46 1, []) := by decide
theorem test_decode_rxHexdigitLower : decode [0x66, 1, 0, 0, 0] = .ok (.rxHexdigitLower 0x66 1, []) := by decide
theorem test_decode_rxOther : decode [0xFF, 1, 0, 0, 0] = .ok (.rxOther 0xFF 1, []) := by decide
theorem test_decode_rxOther_low : decode [0x00, 1, 0x07, 1, 0, 0, 0] = .ok (.rxOther 0x07 1, []) := by decide
theorem test_decode_reqPing : decode [0x02, 1, 0x01, 0, 0, 0, 1, 3, 0, 0, 0] = .ok (.reqPing none [] .internal 3, []) := by
  decide
theorem test_decode_reqAppVersion :
    decode [0x02, 1, 0x03, 0, 0, 0, 1, 3, 0, 0, 0] = .ok (.reqAppVersion none [] .internal 3, []) := by decide
theorem test_decode_reqProductId :
    decode [0x02, 1, 0x04, 0, 0, 0, 1, 3, 0, 0, 0] = .ok (.reqProductId none [] .internal 3, []) := by decide
theorem test_decode_reqRestart :
    decode [0x02, 1, 0x06, 0, 0, 0, 1, 3, 0, 0, 0] = .ok (.reqRestart none [] .internal 3, []) := by decide
theorem test_decode_reqGet :
    decode [0x02, 1, 0x07, 1, 0xF0, 0xED, 0, 0, 0, 5, 0, 0, 0, 3, 0, 0, 0]
      = .ok (.reqGet (some 0xEDF0) [] (.host 5) 3, []) := by decide
theorem test_decode_reqSet :
    decode [0x02, 1, 0x08, 1, 0xF0, 0xED, 1, 0, 0x01, 0, 5, 0, 0, 0, 3, 0, 0, 0]
      = .ok (.reqSet (some 0xEDF0) [0x01] (.host 5) 3, []) := by decide
theorem test_decode_repDone : decode [0x00, 2, 0x01, 0, 0, 3, 0, 0, 0] = .ok (.repDone [] 3, []) := by decide
theorem test_decode_repUnknown : decode [0x00, 2, 0x03, 0, 0, 3, 0, 0, 0] = .ok (.repUnknown [] 3, []) := by decide
theorem test_decode_repError : decode [0x00, 2, 0x04, 0, 0, 3, 0, 0, 0] = .ok (.repError [] 3, []) := by decide
theorem test_decode_repPingResp :
    decode [0x00, 2, 0x05, 2, 0, 0x01, 0x41, 3, 0, 0, 0] = .ok (.repPingResp [0x01, 0x41] 3, []) := by decide
theorem test_decode_repGet : decode [0x00, 2, 0x07, 0, 0, 3, 0, 0, 0] = .ok (.repGet [] 3, []) := by decide
theorem test_decode_repSet : decode [0x00, 2, 0x08, 0, 0, 3, 0, 0, 0] = .ok (.repSet [] 3, []) := by decide
theorem test_decode_repAsync : decode [0x00, 2, 0x0A, 0, 0, 3, 0, 0, 0] = .ok (.repAsync [] 3, []) := by decide
theorem test_decode_repUnrecognised :
    decode [0x00, 2, 0x06, 0, 0, 3, 0, 0, 0] = .ok (.repUnrecognised 0x06 [] 3, []) := by decide

theorem test_decode_refuses :
    decode [] = .error .noBytes ∧ decode [0x01, 0, 0] = .error .truncated ∧ decode [0x00, 3, 0] = .error .badForm ∧
    decode [0x02, 1, 0x05, 0, 0, 0, 1, 0, 0, 0, 0] = .error .noRow ∧ decode [0x02, 0, 0x01, 2] = .error .badFlag ∧
    decode [0x02, 0, 0x01, 0, 0, 0, 2] = .error .badTag := by decide

/-! ## The host's table word -/

theorem test_table_word :
    decodeTableWord 8 1 = some (.tick 0) ∧ decodeTableWord 8 0x3A = some (.rxColon 0) ∧
    decodeTableWord 8 0x46 = some (.rxHexdigit 0x46 0) := by decide

/-- The step after `withFetchWord` runs the word's operation: `IS_CONNECTED`, selector 101. -/
theorem test_fetch_word :
    (match step (State.reset.withFetchWord 8 5) with
      | .next t => t.ret
      | .fault _ => none
      | .refused _ => none) = some false := by decide

/-! ## One step each (95_test_vectors.md) -/

/-- L1.3: the ninth byte of a name. -/
theorem test_rxByte_name_overflow :
    let s := after (.rxByte 0x49 0) (text .textName [0x41, 0x42, 0x43, 0x44, 0x45, 0x46, 0x47, 0x48] [] [] 0x0A)
    s.ev = [.decodeError .nameOverflow .text] ∧ s.fs = .idle ∧ s.txtName = [] := by decide
/-- L1.7: the checksum byte 0x5E after a sum of 0xA2. -/
theorem test_rxByte_text_frame :
    let s := after (.rxByte 0x5E 0) (text .textChecksum checksumName [] [{ name := [0x56], value := [0x31] }] 0xA2)
    s.ev = [.textFrame [{ name := [0x56], value := [0x31] }]] ∧ s.fs = .idle ∧ s.connected = true := by decide
/-- L2.6: 999 units are no timeout. -/
theorem test_tick_early : (after (.tick 999) (pending [slotGet 1])).ev = [] := by decide
/-- L2.6: 1000 units are one. -/
theorem test_tick_timeout : (after (.tick 1000) (pending [slotGet 1])).ev = [.resolved (.host 1) .timeout none] := by decide
/-- L3.4 line 2. -/
theorem test_request_transmits :
    let s := after (.request 0x07 (some 0xEDF0) [] (.host 1) 0) State.reset
    s.ev = [.tx [0x3A, 0x30, 0x37, 0x46, 0x30, 0x45, 0x44, 0x30, 0x30, 0x37, 0x31, 0x0A]] ∧ s.ret = some true := by decide
/-- L2.8: nine raw bytes are refused. -/
theorem test_request_oversize :
    let s := after (.request 0x08 (some 0x2201) [1, 2, 3, 4, 5] (.host 1) 0) State.reset
    s.refused = true ∧ s.ev = [] ∧ s.q = [] := by decide
/-- L3.2: `Get` 0x2201. -/
theorem test_codecEncode_get :
    (after (.codecEncode [0x07, 0x01, 0x22, 0x00]) State.reset).ev =
      [.encoded [0x3A, 0x30, 0x37, 0x30, 0x31, 0x32, 0x32, 0x30, 0x30, 0x32, 0x42, 0x0A]] := by decide
/-- L2.1: the empty frame. -/
theorem test_codecEncode_empty : (after (.codecEncode []) State.reset).ev = [.codecError .coding] := by decide
/-- L2.3: `":070122\0"`. -/
theorem test_codecReencode_nul :
    (after (.codecReencode [0x3A, 0x30, 0x37, 0x30, 0x31, 0x32, 0x32, 0x00]) State.reset).ev =
      [.encoded [0x3A, 0x30, 0x37, 0x30, 0x31, 0x32, 0x32, 0x32, 0x42, 0x0A]] := by decide
/-- L2.3: `":0155\n"`. -/
theorem test_codecReencode_checksum :
    (after (.codecReencode [0x3A, 0x30, 0x31, 0x35, 0x35, 0x0A]) State.reset).ev = [.codecError .checksum] := by decide
theorem test_isConnected_reset : (after .isConnected State.reset).ret = some false := by decide
theorem test_isConnected_linked : (after .isConnected linked).ret = some true := by decide
/-- L2.8: RESET empties the ring without an event. -/
theorem test_reset_pending : after .reset (pending [slotGet 1, slotSet 2]) = State.reset := by decide
/-- L2.8: selector 111. -/
theorem test_reservedOp : after .reservedOp State.reset = { State.reset with refused := true } := by decide
/-- L1.8: `':'` inside a TEXT value. -/
theorem test_rxColon_nested :
    let s := after (.rxColon 0) (text .textValue [0x56] [0x31, 0x32] [] 0xCC)
    s.fs = .hex ∧ s.fsBackup = .textValue ∧ s.rxc.sum = 0x55 ∧ s.txtSum = 0xCC := by decide
/-- L2.2: `"::"`. -/
theorem test_rxColon_in_hex : (after (.rxColon 0) (hex .idle [] .aligned 0 0x55)).ev = [.decodeError .coding .hex] := by decide
/-- L2.2: `":0154\n"`. -/
theorem test_rxLf_valid :
    let s := after (.rxLf 0) (hex .idle [0x01, 0x54] .aligned 0x5 0x00)
    s.ev = [.hexFrame [0x01]] ∧ s.fs = .idle ∧ s.connected = true := by decide
/-- L1.8 (a): a wrong nested checksum resumes the TEXT value. -/
theorem test_rxLf_checksum_error :
    let s := after (.rxLf 0) { hex .textValue [0x01, 0x07, 0xAB] .aligned 0xA 0xA2 with txtValue := [0x31, 0x32], txtSum := 0xCC }
    s.ev = [.decodeError .checksum .hex] ∧ s.fs = .textValue ∧ s.txtValue = [0x31, 0x32] ∧ s.txtSum = 0xCC := by decide
/-- L2.4: `"\n\tv\n"`, an empty name. -/
theorem test_rxTab_empty_name : (after (.rxTab 0) (text .textName [] [] [] 0x0A)).fs = .textValue := by decide
/-- L2.4: TAB is a value byte. -/
theorem test_rxTab_in_value : (after (.rxTab 0) (text .textValue [0x56] [0x31] [] 0)).txtValue = [0x31, 0x09] := by decide
/-- L2.4: CR at a full value is summed and not stored. -/
theorem test_rxCr_full_value :
    let s := after (.rxCr 0) (text .textValue [0x56] (List.replicate 32 0x78) [] 0x01)
    s.ev = [] ∧ s.txtSum = 0x0E ∧ s.txtValue.length = 32 := by decide
/-- L2.2: `":0154\r"`. -/
theorem test_rxCr_in_hex : (after (.rxCr 0) (hex .idle [0x01, 0x54] .aligned 0x5 0x00)).ev = [.decodeError .coding .hex] := by
  decide
/-- L2.2: `":01\0"`. -/
theorem test_rxNul_in_hex : (after (.rxNul 0) (hex .idle [0x01] .aligned 0 0x54)).ev = [.decodeError .coding .hex] := by decide
/-- L2.4: `"\nChecksum\t\0"`. -/
theorem test_rxNul_checksum :
    (after (.rxNul 0) (text .textChecksum checksumName [] [] 0x46)).ev = [.decodeError .checksum .text] := by decide
/-- L2.2: the first digit of byte 17 is only latched. -/
theorem test_rxHexdigit_latch :
    let s := after (.rxHexdigit 0x43 0) (hex .idle (List.replicate 16 0x01) .aligned 0 0x45)
    s.ev = [] ∧ s.rxc.phase = .half ∧ s.rxc.hi = 0xC := by decide
/-- L2.2: the digit that completes byte 17 overflows. -/
theorem test_rxHexdigit_overflow :
    (after (.rxHexdigit 0x44 0) (hex .idle (List.replicate 16 0x01) .half 0xC 0x45)).ev = [.decodeError .overflow .hex] := by
  decide
/-- L2.2: `":0a1\n"` with lowercase digits refused, and accepted. -/
theorem test_rxHexdigitLower_refused :
    (after (.rxHexdigitLower 0x61 0) (hex .idle [] .half 0 0x55)).ev = [.decodeError .coding .hex] := by decide
theorem test_rxHexdigitLower_accepted :
    (after (.rxHexdigitLower 0x66 0)
      { hex .idle [] .half 0x2 0x55 with cfg := { Config.reference with hexLowerOk := true } }).rxc.raw = [0x2F] := by decide
/-- L2.2: `":0g\n"`. -/
theorem test_rxOther_in_hex : (after (.rxOther 0x67 0) (hex .idle [] .half 0 0x55)).ev = [.decodeError .coding .hex] := by decide
/-- L2.6: an ignored byte refreshes `LAST_RX`. -/
theorem test_rxOther_idle : (after (.rxOther 0x78 2000) linked).lastRx = 2000 := by decide
/-- L1.11: `Ping` is `":0154\n"`. -/
theorem test_reqPing :
    (after (.reqPing none [] (.host 1) 0) State.reset).ev = [.tx [0x3A, 0x30, 0x31, 0x35, 0x34, 0x0A]] := by decide
/-- L1.11: `":0352\n"`. -/
theorem test_reqAppVersion :
    (after (.reqAppVersion none [] (.host 1) 0) State.reset).ev = [.tx [0x3A, 0x30, 0x33, 0x35, 0x32, 0x0A]] := by decide
/-- L1.11: `":0451\n"`. -/
theorem test_reqProductId :
    (after (.reqProductId none [] (.host 1) 0) State.reset).ev = [.tx [0x3A, 0x30, 0x34, 0x35, 0x31, 0x0A]] := by decide
/-- L1.11: `":064F\n"`. -/
theorem test_reqRestart :
    (after (.reqRestart none [] (.host 1) 0) State.reset).ev = [.tx [0x3A, 0x30, 0x36, 0x34, 0x46, 0x0A]] := by decide
/-- L3.4 line 4: a full ring. -/
theorem test_reqGet_full :
    let s := after (.reqGet (some 0x0100) [] (.host 3) 20) (pending [slotGet 1, slotSet 2])
    s.ev = [.resolved (.host 3) .queueFull none] ∧ s.ret = some false ∧ s.q.length = 2 := by decide
/-- L3.4 line 3: queued behind. -/
theorem test_reqSet_queued :
    let s := after (.reqSet (some 0xEDF0) [0x01] (.host 2) 10) (pending [slotGet 1])
    s.ev = [] ∧ s.ret = some true ∧ s.q.length = 2 := by decide
/-- L2.5, row `Done`. -/
theorem test_repDone :
    (after (.repDone [] 10) (pending [slotSet 1])).ev = [.hexFrame [0x01], .resolved (.host 1) .success (some [0x01])] := by
  decide
/-- L2.5, row `Unknown`. -/
theorem test_repUnknown :
    (after (.repUnknown [] 10) (pending [slotPing 1])).ev = [.hexFrame [0x03], .resolved (.host 1) .remote (some [0x03])] := by
  decide
/-- L2.5, row `Error`. -/
theorem test_repError :
    (after (.repError [0, 0] 10) (pending [slotGet 1])).ev =
      [.hexFrame [0x04, 0, 0], .resolved (.host 1) .remote (some [0x04, 0, 0])] := by decide
/-- L2.5, row `PingResp`: a `Ping`, and a `Get`. -/
theorem test_repPingResp_ping :
    (after (.repPingResp [0x01, 0x41] 10) (pending [slotPing 1])).ev =
      [.hexFrame [0x05, 0x01, 0x41], .resolved (.host 1) .success (some [0x05, 0x01, 0x41])] := by decide
theorem test_repPingResp_get :
    (after (.repPingResp [0x01, 0x41] 10) (pending [slotGet 1])).ev =
      [.hexFrame [0x05, 0x01, 0x41], .resolved (.host 1) .unexpected (some [0x05, 0x01, 0x41])] := by decide
/-- L2.5, rows `Get 2201` with flags 1 and `Get 2202`. -/
theorem test_repGet_flags :
    (after (.repGet [0x01, 0x22, 0x01] 10) (pending [slotGet 1])).ev =
      [.hexFrame [0x07, 0x01, 0x22, 0x01], .resolved (.host 1) .flags (some [0x07, 0x01, 0x22, 0x01])] := by decide
theorem test_repGet_other_register :
    (after (.repGet [0x02, 0x22, 0x00] 10) (pending [slotGet 1])).ev =
      [.hexFrame [0x07, 0x02, 0x22, 0x00], .resolved (.host 1) .unexpected (some [0x07, 0x02, 0x22, 0x00])] := by decide
/-- L2.5, row `Set 2201`. -/
theorem test_repSet :
    (after (.repSet [0x01, 0x22, 0x00, 0x05] 10) (pending [slotSet 1])).ev =
      [.hexFrame [0x08, 0x01, 0x22, 0x00, 0x05], .resolved (.host 1) .success (some [0x08, 0x01, 0x22, 0x00, 0x05])] := by decide
/-- L2.5, row `Async`. -/
theorem test_repAsync :
    (after (.repAsync [0x01, 0x22, 0x00, 0x10, 0x27] 10) (pending [slotGet 1])).ev =
      [.hexFrame [0x0A, 0x01, 0x22, 0x00, 0x10, 0x27]] := rfl
/-- L2.5, row `[06]`. -/
theorem test_repUnrecognised :
    (after (.repUnrecognised 0x06 [] 10) (pending [slotGet 1])).ev =
      [.hexFrame [0x06], .resolved (.host 1) .remote (some [0x06])] := by decide

/-! ## Witnesses: for each statement with hypotheses, a case that meets them all -/

theorem witness_DecodeEncodeRoundTrip : (Instr.request 0x07 (some 0x2201) [0xFF] (.host 1) 0).wf = true := by decide

theorem witness_EncodeDecodeRoundTrip : decode [0x06, 0x05] = .ok (.reset, [0x05]) := by decide

theorem witness_StepRunsDecodedInstruction :
    State.reset.cfg.wf = true ∧ Instr.isConnected.wf = true ∧
    ({ State.reset with inq := [0x05, 0x06] } : State).inq = encode .isConnected ++ [0x06] := by decide

theorem witness_StepWaitsOrMakesNoStep :
    (State.reset.cfg.wf = true ∧ State.reset.inq = []) ∧
    (Config.wf { Config.reference with queueCap := 0 } = false) ∧
    (([0x01] : List Byte) ≠ [] ∧ decode [0x01] = .error .truncated) := by decide

theorem witness_TraceAppendOnly :
    (exec .isConnected State.reset = .next (after .isConnected State.reset) ∧ Instr.isConnected ≠ .reset) ∧
    exec .reset linked = .next (after .reset linked) := ⟨⟨rfl, by decide⟩, rfl⟩

/-- The reset state with a byte presented meets the invariants, and its step answers. -/
theorem reset_with_input_inv : ({ State.reset with inq := [0x3A, 1, 0, 0, 0] } : State).Inv := by
  constructor <;> first | decide | (intro r hr; cases hr)

theorem witness_StepPreservesInv :
    ({ State.reset with inq := [0x3A, 1, 0, 0, 0] } : State).Inv ∧
    step { State.reset with inq := [0x3A, 1, 0, 0, 0] } = .next (after (.rxColon 1) State.reset) :=
  ⟨reset_with_input_inv, rfl⟩

/-- A request in flight and the link up, one unit short of 2^31 after both timers started, and an operation presented. -/
theorem witness_StepPreservesInv_timers :
    ({ pending [slotGet 1] with connected := true, lastNow := some 0x7FFFFFFF, inq := [0x05] } : State).TimersExact ∧
    step { pending [slotGet 1] with connected := true, lastNow := some 0x7FFFFFFF, inq := [0x05] } =
      .next (after .isConnected { pending [slotGet 1] with connected := true, lastNow := some 0x7FFFFFFF }) :=
  ⟨⟨fun _ => ⟨_, rfl, by decide⟩, fun _ => ⟨_, rfl, by decide⟩⟩, rfl⟩

theorem witness_ResetMeetsInv : Config.reference.wf = true := by decide

theorem witness_EncodedFrameLayout : ([0x07] : List Byte)[0]? = some 0x07 := by decide

theorem witness_DecodeStepOnNonDigit :
    ((0x00 : Byte) ≠ 0x0A ∧ hexval true 0x00 = none) ∧ ((0x3A : Byte) ≠ 0x0A ∧ hexval true 0x3A = none) := by decide

/-- An aligned codec; one between two digits with a full buffer of capacity 0; one with room for its last byte. -/
theorem witness_DecodeStepOnDigit :
    hexval false 0x46 = some 0xF ∧ Codec.init.phase = .aligned ∧
    ({ Codec.init with phase := .half } : Codec).phase = .half ∧
    ({ Codec.init with phase := .half } : Codec).raw.length = 0 ∧ ({ Codec.init with phase := .half } : Codec).raw.length ≠ 1 := by
  decide

theorem witness_CodecRoundTrip : ([0x07, 0x01] : List Byte).length + 1 ≤ 3 := by decide

/-- An odd count, an even count at the capacity, and one byte more than the capacity. -/
theorem witness_CodecValidityLaw :
    (AreDigits false [0x31] [1] ∧ ([0x31] : List Byte).length % 2 = 1 ∧ ([0x31] : List Byte).length / 2 ≤ 0) ∧
    (AreDigits false [0x35, 0x35] [5, 5] ∧ ([0x35, 0x35] : List Byte).length % 2 = 0 ∧ ([0x35, 0x35] : List Byte).length / 2 ≤ 1) ∧
    (AreDigits false [0x35, 0x35] [5, 5] ∧ 0 < ([0x35, 0x35] : List Byte).length / 2) := by
  unfold AreDigits; decide

/-- One case for each verdict, at the reference bounds `REQ_RAW_CAP` 8 and `ENC_CAP` 20: an input over `ENC_CAP`; digits of ten
bytes, one over the scratch buffer; no terminator; an odd count; a stray character; a wrong checksum; an empty frame; a correct
one; NUL after nothing, after eight bytes and after nine. -/
theorem witness_CodecReencodeOutcome :
    State.reset.cfg.encCap < (List.replicate 21 (0x78 : Byte)).length ∧
    (AreDigits State.reset.cfg.hexLowerOk (List.replicate 20 0x30) (List.replicate 20 0) ∧
      ([] ++ List.replicate 20 (0x30 : Byte) ++ []).length ≤ State.reset.cfg.encCap ∧
      State.reset.cfg.reqRawCap + 1 < (List.replicate 20 (0x30 : Byte)).length / 2) ∧
    (AreDigits State.reset.cfg.hexLowerOk [0x35, 0x35] [5, 5] ∧
      ([0x3A] ++ ([0x35, 0x35] : List Byte) ++ [0x0A] ++ [0x78]).length ≤ State.reset.cfg.encCap ∧
      ([0x35, 0x35] : List Byte).length / 2 ≤ State.reset.cfg.reqRawCap + 1 ∧
      (spell [5, 5]).sum = 0x55 ∧ (spell [5, 5]).length ≤ 1) ∧
    (AreDigits State.reset.cfg.hexLowerOk [0x35] [5] ∧ ([0x35] : List Byte).length % 2 = 1) ∧
    (∀ c ∈ ([0x0A, 0x00, 0x3A, 0x67] : List Byte), hexval State.reset.cfg.hexLowerOk c = none) ∧
    (spell [0, 1, 5, 4]).sum = 0x55 ∧ 1 < (spell [0, 1, 5, 4]).length ∧ (spell [0, 1, 5, 5]).sum ≠ 0x55 ∧
    spell [] = [] ∧ (spell (List.replicate 16 0)).length ≤ State.reset.cfg.reqRawCap ∧
    State.reset.cfg.reqRawCap < (spell (List.replicate 18 0)).length := by
  unfold AreDigits; decide

/-- The three forms of the input, the last one at `ENC_CAP`. -/
theorem witness_ReencodeAddsChecksum :
    (1 ≤ ([0x55] : List Byte).length ∧ ([0x55] : List Byte).length ≤ State.reset.cfg.reqRawCap) ∧
    (([0x55] : List Byte).flatMap digits ++ [0x00] ++ [0x3A]).length ≤ State.reset.cfg.encCap ∧
    ([0x3A] ++ ([0x55] : List Byte).flatMap digits ++ [0x00] ++ []).length ≤ State.reset.cfg.encCap ∧
    (encodeFrame [0, 1, 2, 3, 4, 5, 6, 7] ++ []).length = State.reset.cfg.encCap := by decide

/-- Every kind of operation that delivers a byte. -/
theorem witness_ClassMapAgreesWithPrecedence :
    Presents 0x3A 0 (.rxColon 0) ∧ Presents 0x0A 0 (.rxLf 0) ∧ Presents 0x09 0 (.rxTab 0) ∧ Presents 0x0D 0 (.rxCr 0) ∧
    Presents 0x00 0 (.rxNul 0) ∧ Presents 0x46 0 (.rxHexdigit 0x46 0) ∧ Presents 0x61 0 (.rxHexdigitLower 0x61 0) ∧
    Presents 0x67 0 (.rxOther 0x67 0) ∧ Presents 0x67 0 (.rxByte 0x67 0) :=
  ⟨.rxColon rfl, .rxLf rfl, .rxTab rfl, .rxCr rfl, .rxNul rfl, .rxHexdigit (by decide), .rxHexdigitLower (by decide),
    .rxOther (by decide), .rxByte⟩

theorem witness_ColonEntersHex :
    Presents 0x3A 0 (.rxColon 0) ∧ State.reset.nowOk 0 = true ∧ State.reset.fs = BackupState.idle.toFrame ∧
    (text .textChecksum checksumName [] [] 0).fs = BackupState.textChecksum.toFrame := ⟨.rxColon rfl, by decide⟩

theorem witness_LfStartsTextFrame :
    Presents 0x0A 0 (.rxLf 0) ∧ State.reset.nowOk 0 = true ∧ State.reset.fs = .idle ∧ State.reset.cfg.textEnabled = true :=
  ⟨.rxLf rfl, by decide⟩

/-- An ordinary byte; and LF with TEXT disabled. -/
theorem witness_IdleIgnoresOtherBytes :
    (Presents 0x78 0 (.rxOther 0x78 0) ∧ State.reset.nowOk 0 = true ∧ State.reset.fs = .idle ∧ (0x78 : Byte) ≠ 0x3A ∧
      (0x78 : Byte) ≠ 0x0A) ∧
    Presents 0x0A 0 (.rxLf 0) ∧ ({ Config.reference with textEnabled := false } : Config).textEnabled = false :=
  ⟨⟨.rxOther (by decide), by decide⟩, .rxLf rfl, rfl⟩

theorem witness_TabEndsName :
    Presents 0x09 0 (.rxTab 0) ∧ (text .textName checksumName [] [] 0).nowOk 0 = true ∧
    (text .textName checksumName [] [] 0).fs = .textName ∧ (text .textName [0x56] [] [] 0).txtName ≠ checksumName :=
  ⟨.rxTab rfl, by decide⟩

/-- LF as a name byte, with room for one byte and with none. -/
theorem witness_NameByteStoredOrOverflows :
    Presents 0x0A 0 (.rxLf 0) ∧ (0x0A : Byte) ≠ 0x3A ∧ (0x0A : Byte) ≠ 0x09 ∧
    (text .textName (List.replicate 7 0x41) [] [] 0).nowOk 0 = true ∧
    (text .textName (List.replicate 7 0x41) [] [] 0).fs = .textName ∧
    (text .textName (List.replicate 8 0x41) [] [] 0).txtName.length = Config.reference.textNameMax := ⟨.rxLf rfl, by decide⟩

theorem witness_CrInValueSummedOnly :
    Presents 0x0D 0 (.rxCr 0) ∧ (text .textValue [] [] [] 0).nowOk 0 = true ∧ (text .textValue [] [] [] 0).fs = .textValue :=
  ⟨.rxCr rfl, by decide⟩

theorem witness_LfEndsRecord :
    Presents 0x0A 0 (.rxLf 0) ∧ (text .textValue [] [] [] 0).nowOk 0 = true ∧ (text .textValue [] [] [] 0).fs = .textValue ∧
    (text .textValue [] [] (List.replicate 4 { name := [], value := [] }) 0).txtRec.length = Config.reference.textRecordsMax :=
  ⟨.rxLf rfl, by decide⟩

/-- TAB as a value byte, with room for one byte and with none. -/
theorem witness_ValueByteStoredOrOverflows :
    Presents 0x09 0 (.rxTab 0) ∧ (0x09 : Byte) ≠ 0x3A ∧ (0x09 : Byte) ≠ 0x0D ∧ (0x09 : Byte) ≠ 0x0A ∧
    (text .textValue [] (List.replicate 31 0x41) [] 0).nowOk 0 = true ∧
    (text .textValue [] (List.replicate 31 0x41) [] 0).fs = .textValue ∧
    (text .textValue [] (List.replicate 32 0x41) [] 0).txtValue.length = Config.reference.textValueMax := ⟨.rxTab rfl, by decide⟩

/-- The byte that makes the sum 0, and the next one. -/
theorem witness_ChecksumByteEndsTextFrame :
    (Presents 0x0A 0 (.rxLf 0) ∧ (0x0A : Byte) ≠ 0x3A ∧ (text .textChecksum checksumName [] [] 0xF6).nowOk 0 = true ∧
      (text .textChecksum checksumName [] [] 0xF6).fs = .textChecksum ∧
      (text .textChecksum checksumName [] [] 0xF6).txtSum + 0x0A = 0) ∧
    (text .textChecksum checksumName [] [] 0xF7).txtSum + 0x0A ≠ 0 := ⟨⟨.rxLf rfl, by decide⟩, by decide⟩

/-- A first digit; and a second digit with room for exactly one byte. -/
theorem witness_HexDigitContinues :
    Presents 0x30 0 (.rxHexdigit 0x30 0) ∧ (hex .idle [] .aligned 0 0x55).nowOk 0 = true ∧
    (hex .idle [] .aligned 0 0x55).fs = .hex ∧ hexval (hex .idle [] .aligned 0 0x55).cfg.hexLowerOk 0x30 = some 0 ∧
    (hex .idle [] .aligned 0 0x55).rxc.phase = .aligned ∧ (hex .idle (List.replicate 15 0) .half 0 0x55).rxc.phase = .half ∧
    (hex .idle (List.replicate 15 0) .half 0 0x55).rxc.raw.length ≠ Config.reference.hexRawCap :=
  ⟨.rxHexdigit (by decide), by decide⟩

theorem witness_ValidHexFrameDelivered :
    Presents 0x0A 0 (.rxLf 0) ∧ (hex .textName [0x55] .aligned 5 0).nowOk 0 = true ∧ (hex .textName [0x55] .aligned 5 0).fs = .hex ∧
    (hex .textName [0x55] .aligned 5 0).rxc.phase = .aligned ∧ (hex .textName [0x55] .aligned 5 0).rxc.sum = 0 :=
  ⟨.rxLf rfl, by decide⟩

theorem witness_HexChecksumErrorResumes :
    Presents 0x0A 0 (.rxLf 0) ∧ (hex .textName [] .aligned 0 0x55).nowOk 0 = true ∧ (hex .textName [] .aligned 0 0x55).fs = .hex ∧
    (hex .textName [] .aligned 0 0x55).rxc.phase = .aligned ∧ (hex .textName [] .aligned 0 0x55).rxc.sum ≠ 0 :=
  ⟨.rxLf rfl, by decide⟩

/-- A second colon; and LF between two digits. -/
theorem witness_HexCodingErrorResets :
    (Presents 0x3A 0 (.rxColon 0) ∧ (hex .idle [] .half 0 0x55).nowOk 0 = true ∧ (hex .idle [] .half 0 0x55).fs = .hex ∧
      (0x3A : Byte) ≠ 0x0A ∧ hexval (hex .idle [] .half 0 0x55).cfg.hexLowerOk 0x3A = none) ∧
    Presents 0x0A 0 (.rxLf 0) ∧ (hex .idle [] .half 0 0x55).rxc.phase = .half := ⟨⟨.rxColon rfl, by decide⟩, .rxLf rfl, rfl⟩

theorem witness_HexOverflowResets :
    Presents 0x39 0 (.rxHexdigit 0x39 0) ∧ (hex .idle (List.replicate 16 0) .half 0 0x55).nowOk 0 = true ∧
    (hex .idle (List.replicate 16 0) .half 0 0x55).fs = .hex ∧ hexval Config.reference.hexLowerOk 0x39 = some 9 ∧
    (hex .idle (List.replicate 16 0) .half 0 0x55).rxc.phase = .half ∧
    (hex .idle (List.replicate 16 0) .half 0 0x55).rxc.raw.length = Config.reference.hexRawCap :=
  ⟨.rxHexdigit (by decide), by decide⟩

/-- `":55\n"` inside a TEXT value. -/
theorem witness_NestedHexKeepsTextFrame :
    AreDigits (text .textValue [0x56] [0x31] [] 0xCC).cfg.hexLowerOk [0x35, 0x35] [5, 5] ∧
    ([0x35, 0x35] : List Byte).length % 2 = 0 ∧ ([0x35, 0x35] : List Byte).length / 2 ≤ Config.reference.hexRawCap ∧
    (text .textValue [0x56] [0x31] [] 0xCC).nowOk 0 = true ∧ (text .textValue [0x56] [0x31] [] 0xCC).fs ≠ .hex := by
  unfold AreDigits; decide

/-- No record (L2.4: checksum byte 0xBA), and one record with the wrong byte. -/
theorem witness_TextFrameDeliveredIffSumZero :
    (State.reset.nowOk 0 = true ∧ State.reset.fs = .idle ∧ State.reset.cfg.textEnabled = true ∧ State.reset.cfg.wf = true ∧
      (0xBA : Byte) ≠ 0x3A ∧ (textBytes [] 0xBA).sum = 0) ∧
    Admissible State.reset.cfg { name := [0x56], value := [0x31] } ∧
    ([({ name := [0x56], value := [0x31] }, true)] : List (TextRecord × Bool)).length ≤ State.reset.cfg.textRecordsMax ∧
    (textBytes [({ name := [0x56], value := [0x31] }, true)] 0x00).sum ≠ 0 := by
  unfold Admissible; decide

theorem witness_DecodeErrorStandsAlone :
    Presents 0x3A 0 (.rxColon 0) ∧
    exec (.rxColon 0) (hex .idle [] .aligned 0 0x55) = .next (after (.rxColon 0) (hex .idle [] .aligned 0 0x55)) :=
  ⟨.rxColon rfl, rfl⟩

/-- In `HEX` with a TEXT backup: the invariants hold, and a byte raises each kind of error. -/
theorem nested_inv : ({ hex .textName [] .aligned 0 0x55 with txtName := [0x56] } : State).Inv := by
  constructor <;> first | decide | (intro r hr; cases hr)

theorem witness_DecodeErrorResetsDecoder :
    ({ hex .textName [] .aligned 0 0x55 with txtName := [0x56] } : State).Inv ∧
    Presents 0x3A 0 (.rxColon 0) ∧ Presents 0x0A 0 (.rxLf 0) ∧
    (after (.rxColon 0) { hex .textName [] .aligned 0 0x55 with txtName := [0x56] }).ev = [.decodeError .coding .hex] ∧
    (after (.rxLf 0) { hex .textName [] .aligned 0 0x55 with txtName := [0x56] }).ev = [.decodeError .checksum .hex] :=
  ⟨nested_inv, .rxColon rfl, .rxLf rfl, by decide⟩

/-- While connected; and the checksum byte of a TEXT frame that connects and starts a sweep. -/
theorem witness_TextBytesNeverResolve :
    (Presents 0x09 0 (.rxTab 0) ∧ exec (.rxTab 0) linked = .next (after (.rxTab 0) linked) ∧ linked.fs ≠ .hex ∧
      linked.connected = true) ∧
    Presents 0x78 0 (.rxOther 0x78 0) ∧
    exec (.rxOther 0x78 0) (text .textChecksum checksumName [] [] 0x88)
      = .next (after (.rxOther 0x78 0) (text .textChecksum checksumName [] [] 0x88)) ∧
    (after (.rxOther 0x78 0) (text .textChecksum checksumName [] [] 0x88)).connected = true :=
  ⟨⟨.rxTab rfl, rfl, by decide⟩, .rxOther (by decide), rfl, by decide⟩

/-- A request of exactly `REQ_RAW_CAP` bytes, into an empty ring and behind one request. -/
theorem witness_RequestAccepted :
    Asks 0x08 (some 0x2201) [1, 2, 3, 4] (.host 1) 0 (.reqSet (some 0x2201) [1, 2, 3, 4] (.host 1) 0) ∧ Tag.host 1 ≠ .internal ∧
    ([0x08, 0x01, 0x22, 0x00, 1, 2, 3, 4] : List Byte) =
      0x08 :: (0x2201 : RegId).setWidth 8 :: ((0x2201 : RegId) >>> 8).setWidth 8 :: 0x00 :: [1, 2, 3, 4] ∧
    ([0x08, 0x01, 0x22, 0x00, 1, 2, 3, 4] : List Byte).length ≤ State.reset.cfg.reqRawCap ∧ State.reset.nowOk 0 = true ∧
    State.reset.q.length < State.reset.cfg.queueCap ∧ State.reset.q = [] ∧ (pending [slotGet 1]).q ≠ [] ∧
    (pending [slotGet 1]).q.length < (pending [slotGet 1]).cfg.queueCap := ⟨.set rfl, by decide⟩

theorem witness_RequestQueueFull :
    Asks 0x01 none [] (.host 3) 0 (.reqPing none [] (.host 3) 0) ∧ Tag.host 3 ≠ .internal ∧
    (requestRaw 0x01 none []).length ≤ Config.reference.reqRawCap ∧ (pending [slotGet 1, slotSet 2]).nowOk 0 = true ∧
    (pending [slotGet 1, slotSet 2]).q.length = (pending [slotGet 1, slotSet 2]).cfg.queueCap := ⟨.ping rfl, by decide⟩

/-- The tag INTERNAL; nine raw bytes; a `now` one unit in the past; a TICK at the end of the allowed gap; and before any TICK a
request in flight, and a link, found at 2^31 or past it by a `now` close after the last one. -/
theorem witness_RefusedOperationsOnlyMark :
    Asks 0x01 none [] .internal 0 (.reqPing none [] .internal 0) ∧
    Config.reference.reqRawCap < (requestRaw 0x08 (some 0x2201) [1, 2, 3, 4, 5]).length ∧
    ({ State.reset with lastNow := some 1 } : State).nowOk 0 = false ∧
    ({ State.reset with lastNow := some 0 } : State).nowOk (BitVec.ofNat 32 (2 ^ 31 - 1)) = true ∧
    Presents 0x3A 0 (.rxColon 0) ∧
    ({ State.reset with lastNow := some 0, tickGap := some 0 } : State).tickGapOk (BitVec.ofNat 32 (2 ^ 31 - 3000)) = false ∧
    ({ State.reset with lastNow := some 0, tickGap := some 0 } : State).tickGapOk (BitVec.ofNat 32 (2 ^ 31 - 3001)) = true ∧
    ({ pending [slotGet 1] with lastNow := some 0x70000000 } : State).nowOk 0x7FFFFFFF = true ∧
    ({ pending [slotGet 1] with lastNow := some 0x70000000 } : State).nowOk 0x80000000 = false ∧
    ({ linked with lastNow := some 0x70000000 } : State).nowOk 0xE0000000 = false ∧
    ({ pending [slotGet 1] with lastNow := some 0x70000000, refused := true } : State).nowOk 0x10 = false :=
  ⟨.ping rfl, by decide, by decide, by decide, .rxColon rfl, by decide, by decide, by decide, by decide, by decide, by decide⟩

theorem witness_ResolvingHeadAdvancesQueue :
    (pending [slotGet 1, slotSet 2]).q = [slotGet 1, slotSet 2] ∧
    (pending [slotGet 1]).q = [slotGet 1] ∧ (pending [slotGet 1]).sweepActive = false ∧
    ({ pending [slotGet 1] with sweepActive := true } : State).sweepActive = true := by decide

/-- A first key, and the end of an empty list. -/
theorem witness_SweepIssuesNextGet :
    State.reset.q = [] ∧ 1 ≤ State.reset.cfg.queueCap ∧
    ({ State.reset with cfg := { Config.reference with pollKeys := [0x2201] } } : State).cfg.pollKeys[0]? = some 0x2201 ∧
    State.reset.cfg.pollKeys.length ≤ State.reset.sweepCursor := by decide

theorem witness_FirstFrameConnects :
    linked.connected = true ∧ State.reset.connected = false ∧
    (State.reset.cfg.hexEnabled && State.reset.cfg.indexNonempty) = false ∧
    ({ Config.reference with indexNonempty := true } : Config).indexNonempty = true ∧ Config.reference.hexEnabled = true := by
  decide

/-- The longest frame that fits (15 raw bytes), the first that does not, a frame in `HEX`, and a `now` in the past. -/
theorem witness_ReplyFrameReceivedWhole :
    Replies 0x0A (List.replicate 14 0) 0 (.repAsync (List.replicate 14 0) 0) ∧ State.reset.nowOk 0 = true ∧
    State.reset.fs ≠ .hex ∧ (List.replicate 14 (0 : Byte)).length + 2 ≤ State.reset.cfg.hexRawCap ∧
    State.reset.cfg.hexRawCap < (List.replicate 15 (0 : Byte)).length + 2 ∧ (hex .idle [] .aligned 0 0x55).fs = .hex ∧
    (hex .idle [] .aligned 0 0x55).nowOk 0 = true ∧ ({ State.reset with lastNow := some 1 } : State).nowOk 0 = false :=
  ⟨.async rfl, by decide⟩

/-- A pending request outside `HEX`, and reply lengths up to the longest that fits. -/
theorem witness_DoneResolvesSuccess :
    (pending [slotGet 1]).q = slotGet 1 :: [] ∧ (pending [slotGet 1]).nowOk 0 = true ∧ (pending [slotGet 1]).fs ≠ .hex ∧
    ([] : List Byte).length + 2 ≤ (pending [slotGet 1]).cfg.hexRawCap ∧
    (List.replicate 14 (0 : Byte)).length + 2 ≤ (pending [slotGet 1]).cfg.hexRawCap := by decide

theorem witness_PingRespMatchesPingOnly :
    (pending [slotPing 1]).q = slotPing 1 :: [] ∧ (pending [slotPing 1]).nowOk 0 = true ∧ (pending [slotPing 1]).fs ≠ .hex ∧
    ([0x01, 0x41] : List Byte).length + 2 ≤ (pending [slotPing 1]).cfg.hexRawCap ∧ (slotPing 1).cmd = 0x01 ∧
    (slotGet 1).cmd ≠ 0x01 := by decide

theorem witness_MatchingRegisterReplyByFlags :
    (pending [slotGet 1]).q = slotGet 1 :: [] ∧ (slotGet 1).cmd = 0x07 ∧ (slotGet 1).reg = some ((0x22 : Byte) ++ (0x01 : Byte)) ∧
    (slotSet 1).cmd = 0x08 ∧ (slotSet 1).reg = some ((0x22 : Byte) ++ (0x01 : Byte)) ∧
    (pending [slotGet 1]).nowOk 0 = true ∧ (pending [slotGet 1]).fs ≠ .hex ∧
    ([] : List Byte).length + 5 ≤ (pending [slotGet 1]).cfg.hexRawCap := by decide

/-- Too short by one byte; another command; another register id. -/
theorem witness_MismatchedRegisterReplyUnexpected :
    (pending [slotGet 1]).q = slotGet 1 :: [] ∧ (pending [slotGet 1]).nowOk 0 = true ∧ (pending [slotGet 1]).fs ≠ .hex ∧
    ([0x01, 0x22] : List Byte).length < 3 ∧ ([0x01, 0x22] : List Byte).length + 2 ≤ (pending [slotGet 1]).cfg.hexRawCap ∧
    (slotGet 1).cmd ≠ 0x08 ∧ (slotGet 1).reg ≠ some ((0x22 : Byte) ++ (0x02 : Byte)) := by decide

/-- Unrecognised codes; and the empty frame, ended in `HEX` (with one byte received, and with none) and fed whole. -/
theorem witness_RemoteRepliesResolveRemote :
    (isUnrecognisedCode 0x0B = true ∧ isUnrecognisedCode 0x00 = true ∧ (pending [slotGet 1]).q = slotGet 1 :: [] ∧
      (pending [slotGet 1]).nowOk 0 = true ∧ (pending [slotGet 1]).fs ≠ .hex ∧
      ([] : List Byte).length + 2 ≤ (pending [slotGet 1]).cfg.hexRawCap) ∧
    (Presents 0x0A 0 (.rxLf 0) ∧ ({ hex .idle [0x55] .aligned 5 0 with q := [slotGet 1] } : State).nowOk 0 = true ∧
      (hex .idle [0x55] .aligned 5 0).fs = .hex ∧ (hex .idle [0x55] .aligned 5 0).rxc.phase = .aligned ∧
      (hex .idle [0x55] .aligned 5 0).rxc.sum = 0 ∧ (hex .idle [0x55] .aligned 5 0).rxc.raw.length ≤ 1 ∧
      (hex .idle [] .aligned 5 0).rxc.raw.length ≤ 1) ∧
    1 ≤ (pending [slotGet 1]).cfg.hexRawCap := ⟨by decide, ⟨.rxLf rfl, by decide⟩, by decide⟩

theorem witness_UnsolicitedFramesOnlyConnect :
    Replies 0x0A [] 0 (.repAsync [] 0) ∧ Replies 0x01 [] 0 (.repDone [] 0) ∧ State.reset.q = [] ∧ State.reset.nowOk 0 = true ∧
    State.reset.fs ≠ .hex ∧ ([] : List Byte).length + 2 ≤ State.reset.cfg.hexRawCap ∧ 1 ≤ State.reset.cfg.hexRawCap :=
  ⟨.async rfl, .done rfl, by decide⟩

/-- One unit before the timeout and at it (L2.6), with the link up and one unit short of its own timeout. -/
theorem witness_CommandTimesOutAtTick :
    (pending [slotGet 1]).nowOk 1000 = true ∧ (pending [slotGet 1]).tickGapOk 1000 = true ∧
    ((2999 - linked.lastRx).toNat < linked.cfg.linkTimeout.toNat) ∧ (pending [slotGet 1]).q ≠ [] ∧
    (pending [slotGet 1]).cfg.commandTimeout.toNat ≤ (1000 - (pending [slotGet 1]).qTxTime).toNat ∧
    (999 - (pending [slotGet 1]).qTxTime).toNat < (pending [slotGet 1]).cfg.commandTimeout.toNat := by decide

theorem linked_inv : linked.Inv := by
  constructor <;> first | decide | (intro r hr; cases hr)

theorem witness_LinkDownFlushesRing :
    linked.Inv ∧ linked.nowOk 3000 = true ∧ linked.tickGapOk 3000 = true ∧ linked.connected = true ∧
    linked.cfg.linkTimeout.toNat ≤ (3000 - linked.lastRx).toNat := ⟨linked_inv, by decide⟩

theorem witness_OperationsWriteOnlyTheirElements :
    (Asks 0x01 none [] (.host 1) 0 (.reqPing none [] (.host 1) 0) ∧
      exec (.reqPing none [] (.host 1) 0) linked = .next (after (.reqPing none [] (.host 1) 0) linked)) ∧
    (Presents 0x3A 0 (.rxColon 0) ∧ linked.nowOk 0 = true ∧ exec (.rxColon 0) linked = .next (after (.rxColon 0) linked)) ∧
    (exec (.tick 0) linked = .next (after (.tick 0) linked) ∧ (after (.tick 0) linked).connected = linked.connected) ∧
    (exec (.codecEncode []) linked = .next (after (.codecEncode []) linked) ∧
      exec (.codecReencode [0x30]) linked = .next (after (.codecReencode [0x30]) linked) ∧
      exec .isConnected linked = .next (after .isConnected linked) ∧ exec .reset linked = .next (after .reset linked)) ∧
    (Replies 0x01 [] 0 (.repDone [] 0) ∧ exec (.repDone [] 0) linked = .next (after (.repDone [] 0) linked)) :=
  ⟨⟨.ping rfl, rfl⟩, ⟨.rxColon rfl, by decide, rfl⟩, ⟨rfl, by decide⟩, ⟨rfl, rfl, rfl, rfl⟩, .done rfl, rfl⟩

theorem witness_RequestsCompleteInOrder :
    exec (.reqPing none [] (.host 1) 0) linked = .next (after (.reqPing none [] (.host 1) 0) linked) ∧
    Instr.reqPing none [] (.host 1) 0 ≠ .reset ∧ Asks 0x01 none [] (.host 1) 0 (.reqPing none [] (.host 1) 0) ∧
    (after (.reqPing none [] (.host 1) 0) linked).ret = some true := ⟨rfl, by decide, .ping rfl, by decide⟩

end Sys2Proof.Tests
end

section
/-! PROOF. O13: the encoded frame is a list of digit pairs, one per raw byte and one for the checksum, between `':'` and LF (R104). -/

namespace Sys2Proof.Machine

@[simp] theorem digits_length (b : Byte) : (digits b).length = 2 := rfl

theorem length_flatMap_digits (bs : List Byte) : (bs.flatMap digits).length = 2 * bs.length := by
  induction bs with
  | nil => rfl
  | cons b bs ih =>
    simp only [List.flatMap_cons, List.length_append, List.length_cons, digits_length, ih]
    omega

/-- Byte `i` of a digit string stands at characters `2i` and `2i + 1`, high nibble first (R77), whatever follows the string. -/
theorem getElem?_flatMap_digits {bs : List Byte} {i : Nat} {b : Byte} (h : bs[i]? = some b) (after : List Byte) :
    (bs.flatMap digits ++ after)[2 * i]? = some (hexdig (hiNibble b)) ∧
    (bs.flatMap digits ++ after)[2 * i + 1]? = some (hexdig (loNibble b)) := by
  induction bs generalizing i with
  | nil => simp at h
  | cons c cs ih =>
    cases i with
    | zero =>
      obtain rfl : c = b := by simpa using h
      exact ⟨rfl, rfl⟩
    | succ j => exact ih (i := j) (by simpa using h)

/-- The checksum is sent as one more byte after the raw ones (R104, R148). -/
theorem encodeFrame_eq_flatMap (raw : List Byte) :
    encodeFrame raw = chColon :: ((raw ++ [checksum raw]).flatMap digits ++ [chLf]) := by
  simp [encodeFrame]

theorem encodeFrame_length (raw : List Byte) : (encodeFrame raw).length = 2 * raw.length + 4 := by
  simp only [encodeFrame, List.length_cons, List.length_append, length_flatMap_digits, digits_length, List.length_nil]

/-- The digit pair of byte `i` of the raw bytes followed by their checksum, counted from the leading `':'`. -/
theorem encodeFrame_getElem?_pair {raw : List Byte} {i : Nat} {b : Byte} (h : (raw ++ [checksum raw])[i]? = some b) :
    (encodeFrame raw)[1 + 2 * i]? = some (hexdig (hiNibble b)) ∧
    (encodeFrame raw)[2 + 2 * i]? = some (hexdig (loNibble b)) := by
  rw [encodeFrame_eq_flatMap, show 1 + 2 * i = 2 * i + 1 by omega, show 2 + 2 * i = 2 * i + 1 + 1 by omega,
    List.getElem?_cons_succ, List.getElem?_cons_succ]
  exact getElem?_flatMap_digits h [chLf]

theorem encodeFrame_getElem?_last (raw : List Byte) : (encodeFrame raw)[3 + 2 * raw.length]? = some chLf := by
  have hlast : (encodeFrame raw).getLast? = some chLf :=
    List.getLast?_concat (l := chColon :: (raw.flatMap digits ++ digits (checksum raw)))
  rw [List.getLast?_eq_getElem?, encodeFrame_length] at hlast
  rwa [show 3 + 2 * raw.length = 2 * raw.length + 4 - 1 by omega]

end Sys2Proof.Machine

namespace Sys2Proof.Claims

open Sys2Proof.Machine

/-- Settles O13: the raw bytes and the checksum are both read off as pairs of one digit string. -/
theorem encodedFrameLayout : Obligations.EncodedFrameLayout := by
  intro raw
  have hraw : ∀ (i : Nat) (b : Byte), raw[i]? = some b → (raw ++ [checksum raw])[i]? = some b := fun i b h => by
    obtain ⟨hi, -⟩ := List.getElem?_eq_some_iff.1 h
    rwa [List.getElem?_append_left hi]
  have hsum : (raw ++ [checksum raw])[raw.length]? = some (checksum raw) := List.getElem?_concat_length
  obtain ⟨hsumHi, hsumLo⟩ := encodeFrame_getElem?_pair hsum
  exact ⟨encodeFrame_length raw, rfl, fun i b h => encodeFrame_getElem?_pair (hraw i b h), hsumHi, hsumLo,
    encodeFrame_getElem?_last raw⟩

end Sys2Proof.Claims
end

section
/-! PROOF. O12, O14, O15: the checksum in closed form (R149), and DecodeStep on a character that is no hex digit (R142, R143,
R146). -/

namespace Sys2Proof.Machine

/-- NUL ends an aligned string with every byte stored so far (R143) and is no digit between two digits (R146). -/
theorem codecNul_eq_ite (cs : Codec) :
    codecNul cs = if cs.phase = .aligned then .terminated cs.raw else .codingError := by
  cases hp : cs.phase <;> simp [codecNul, hp]

end Sys2Proof.Machine

namespace Sys2Proof.Claims

open Sys2Proof.Machine

/-- Settles O12, by induction on the last byte: subtracting it from the checksum adds it to the sum. -/
theorem checksumIsSeededDifference : Obligations.ChecksumIsSeededDifference := by
  intro raw
  induction raw using List.reverseRecOn with
  | nil => rfl
  | append_singleton xs b ih =>
    calc checksum (xs ++ [b])
      _ = checksum xs - b := checksum_append xs b
      _ = 0x55 - xs.sum - b := by rw [ih]
      _ = 0x55 - (xs.sum + b) := sub_sub _ _ _
      _ = 0x55 - (xs ++ [b]).sum := by rw [List.sum_append, List.sum_singleton]

/-- Settles O14: DecodeStep on LF is `codecEnd`, which pops the last byte where the statement takes all but it. -/
theorem decodeStepOnLf : Obligations.DecodeStepOnLf := by
  intro cap lowerOk cs
  rw [← List.dropLast_eq_take]
  exact decodeStep_lf cap lowerOk cs

/-- Settles O15: NUL is `codecNul`, which looks at the phase; every other character is `decodeStep_other`. -/
theorem decodeStepOnNonDigit : Obligations.DecodeStepOnNonDigit := by
  intro cap lowerOk c cs hlf hdigit
  by_cases hnul : c = chNul
  · subst hnul
    rw [decodeStep_nul, codecNul_eq_ite]
    simp
  · rw [decodeStep_other hdigit hlf hnul, if_neg (fun h => hnul h.1)]

end Sys2Proof.Claims
end

section
/-! PROOF. What `fd_step` makes of a byte, class by class (41_frame_decoder.md), and the class rows of R100 read as `RX_BYTE` in
the test order of R101: the operation that delivers a byte matters no more than the byte. -/

namespace Sys2Proof.Machine

/-! ## `fd_step` in one state -/

theorem fdStep_hex {s : State} (h : s.fs = .hex) (b : Byte) : fdStep b s = fdHex b s := by simp only [fdStep, h]

/-- `':'` enters `HEX` from whatever state a backup can name (R183). -/
theorem fdStep_colon {s : State} {from' : BackupState} (h : s.fs = from'.toFrame) :
    fdStep chColon s = (enterHex from' s, .none) := by
  cases from' <;> simp only [BackupState.toFrame] at h <;> simp [fdStep, h, fdIdle, fdName, fdValue, fdChecksum]

/-- CR in `TEXT_VALUE` is taken before the bound of the value is looked at (R189). -/
theorem fdStep_valueCr {s : State} (h : s.fs = .textValue) : fdStep chCr s = (valueCr s, .none) := by
  simp [fdStep, h, fdValue]

/-- LF on an aligned codec whose sum is not 0 (R196). -/
theorem fdStep_checksumError {s : State} (h : s.fs = .hex) (hp : s.rxc.phase = .aligned) (hs : s.rxc.sum ≠ 0) :
    fdStep chLf s = (resumeBackup (emit s (.decodeError .checksum .hex)), .none) := by
  have hend : codecEnd s.rxc = .checksumError := by
    rw [codecEnd, hp, if_neg (by decide), if_pos hs]
  rw [fdStep_hex h, fdHex, decodeStep_lf, hend]
  rfl

/-- The second digit of a byte that a full buffer has no room for (R198). -/
theorem fdStep_overflow {s : State} {b : Byte} {v : Nibble} (h : s.fs = .hex) (hv : hexval s.cfg.hexLowerOk b = some v)
    (hp : s.rxc.phase = .half) (hc : s.rxc.raw.length = s.cfg.hexRawCap) :
    fdStep b s = (decoderReset (emit s (.decodeError .overflow .hex)), .none) := by
  rw [fdStep_hex h, fdHex, decodeStep_digit hv, codecNibble_full hp hc]
  rfl

/-- In `HEX` a character that neither ends the string nor is a digit (R146). -/
theorem fdStep_hex_other {s : State} {b : Byte} (h : s.fs = .hex) (hv : hexval s.cfg.hexLowerOk b = none)
    (hlf : b ≠ chLf) (hnul : b ≠ chNul) : fdStep b s = hexOutcome (s.rxc, .codingError) s := by
  rw [fdStep_hex h, fdHex, decodeStep_other hv hlf hnul]

/-! ## The rows of the decoding map -/

/-- The bytes that have a row to themselves (R100). -/
def delimiters : List Byte := [chColon, chLf, chTab, chCr, chNul]

theorem hexdigit_not_mem_delimiters {b : Byte} (h : isHexdigitByte b = true) : b ∉ delimiters := by
  revert b; decide
theorem hexdigitLower_not_mem_delimiters {b : Byte} (h : isHexdigitLowerByte b = true) : b ∉ delimiters := by
  revert b; decide
theorem other_not_mem_delimiters {b : Byte} (h : isOtherByte b = true) : b ∉ delimiters := by
  revert b; decide

theorem hexval_tab (lowerOk : Bool) : hexval lowerOk chTab = none := by revert lowerOk; decide
theorem hexval_cr (lowerOk : Bool) : hexval lowerOk chCr = none := by revert lowerOk; decide
theorem hexval_false_hexdigitLower {b : Byte} (h : isHexdigitLowerByte b = true) : hexval false b = none := by
  revert b; decide
theorem hexval_other {b : Byte} (h : isOtherByte b = true) (lowerOk : Bool) : hexval lowerOk b = none := by
  revert b lowerOk; decide

theorem mapColon_eq_fdStep (s : State) : mapColon s = fdStep chColon s := by
  by_cases hf : s.fs = .hex
  · simp only [mapColon, hf, fdStep_hex_other hf (hexval_colon _) (by decide) (by decide)]
  · obtain ⟨from', hb⟩ := exists_backup hf
    rw [fdStep_colon hb.symm]
    cases from' <;> simp only [BackupState.toFrame] at hb <;> simp only [mapColon, ← hb]

theorem mapLf_eq_fdStep (s : State) : mapLf s = fdStep chLf s := by
  cases hf : s.fs
  case hex => simp only [mapLf, hf, fdStep_hex hf, fdHex, decodeStep_lf]
  all_goals simp [mapLf, fdStep, hf, fdIdle, fdName, fdValue, fdChecksum]

theorem mapTab_eq_fdStep (s : State) : mapTab s = fdStep chTab s := by
  cases hf : s.fs
  case hex => simp only [mapTab, hf, fdStep_hex_other hf (hexval_tab _) (by decide) (by decide)]
  all_goals simp [mapTab, fdStep, hf, fdIdle, fdName, fdValue, fdChecksum]

theorem mapCr_eq_fdStep (s : State) : mapCr s = fdStep chCr s := by
  cases hf : s.fs
  case hex => simp only [mapCr, hf, fdStep_hex_other hf (hexval_cr _) (by decide) (by decide)]
  all_goals simp [mapCr, fdStep, hf, fdIdle, fdName, fdValue, fdChecksum]

theorem mapNul_eq_fdStep (s : State) : mapNul s = fdStep chNul s := by
  cases hf : s.fs
  case hex => simp only [mapNul, hf, fdStep_hex hf, fdHex, decodeStep_nul]
  all_goals simp [mapNul, fdStep, hf, fdIdle, fdName, fdValue, fdChecksum]

/-- A byte without a row to itself meets no delimiter test, so in `HEX` it must be a digit and elsewhere it is an ordinary byte. -/
theorem mapHexdigit_eq_fdStep {b : Byte} (h : b ∉ delimiters) (s : State) : mapHexdigit b s = fdStep b s := by
  simp only [delimiters, List.mem_cons, List.not_mem_nil, or_false, not_or] at h
  obtain ⟨hcolon, hlf, htab, hcr, hnul⟩ := h
  cases hf : s.fs
  case hex => simp only [mapHexdigit, fdStep, hf, fdHex, decodeStep, if_neg hlf, if_neg hnul]
  case idle => simp only [mapHexdigit, fdStep, hf, fdIdle, if_neg hcolon, if_neg hlf]
  case textName => simp only [mapHexdigit, fdStep, hf, fdName, if_neg hcolon, if_neg htab]
  case textValue => simp only [mapHexdigit, fdStep, hf, fdValue, if_neg hcolon, if_neg hcr, if_neg hlf]
  case textChecksum => simp only [mapHexdigit, fdStep, hf, fdChecksum, if_neg hcolon]

/-- Rows OTHER and HEXDIGIT differ in `HEX` only, on a byte that is a digit there. -/
theorem mapOther_eq_mapHexdigit {b : Byte} {s : State} (h : hexval s.cfg.hexLowerOk b = none) :
    mapOther b s = mapHexdigit b s := by
  cases hf : s.fs <;> simp only [mapOther, mapHexdigit, hf, codecDigit, h]

theorem mapHexdigitLower_eq_fdStep {b : Byte} (h : isHexdigitLowerByte b = true) (s : State) :
    mapHexdigitLower b s = fdStep b s := by
  rw [← mapHexdigit_eq_fdStep (hexdigitLower_not_mem_delimiters h), mapHexdigitLower]
  cases hl : s.cfg.hexLowerOk with
  | true => rw [if_pos rfl]
  | false => rw [if_neg Bool.false_ne_true, mapOther_eq_mapHexdigit (hl ▸ hexval_false_hexdigitLower h)]

theorem mapOther_eq_fdStep {b : Byte} (h : isOtherByte b = true) (s : State) : mapOther b s = fdStep b s := by
  rw [mapOther_eq_mapHexdigit (hexval_other h _), mapHexdigit_eq_fdStep (other_not_mem_delimiters h)]

/-- Only what the decoder makes of the byte tells one delivering operation from another (R180). -/
theorem deliver_eq_rxByte {b : Byte} {fd : State → State × FdResult} (h : ∀ s, fd s = fdStep b s) (now : Time) (s : State) :
    timed now (deliver now fd) s = rxByte b now s := by
  rw [rxByte, funext h]

end Sys2Proof.Machine

namespace Sys2Proof.Claims

open Sys2Proof.Machine

/-- Whatever operation delivers a byte, its effect is that of `RX_BYTE` (R100, R101). -/
theorem exec_presents {b : Byte} {now : Time} {i : Instr} (h : Presents b now i) (s : State) :
    exec i s = .next (rxByte b now s) := by
  cases h with
  | rxByte => rfl
  | rxColon hb => subst hb; exact congrArg _ (deliver_eq_rxByte mapColon_eq_fdStep now s)
  | rxLf hb => subst hb; exact congrArg _ (deliver_eq_rxByte mapLf_eq_fdStep now s)
  | rxTab hb => subst hb; exact congrArg _ (deliver_eq_rxByte mapTab_eq_fdStep now s)
  | rxCr hb => subst hb; exact congrArg _ (deliver_eq_rxByte mapCr_eq_fdStep now s)
  | rxNul hb => subst hb; exact congrArg _ (deliver_eq_rxByte mapNul_eq_fdStep now s)
  | rxHexdigit hb =>
    exact congrArg _ (deliver_eq_rxByte (mapHexdigit_eq_fdStep (hexdigit_not_mem_delimiters hb)) now s)
  | rxHexdigitLower hb => exact congrArg _ (deliver_eq_rxByte (mapHexdigitLower_eq_fdStep hb) now s)
  | rxOther hb => exact congrArg _ (deliver_eq_rxByte (mapOther_eq_fdStep hb) now s)

/-- An accepted byte that ends no frame: the next state is what `fd_step` makes of the state that heard it (R180). -/
theorem exec_presents_none {b : Byte} {now : Time} {i : Instr} {s t : State} (hi : Presents b now i)
    (hok : s.nowOk now = true) (hfd : fdStep b (heard now s) = (t, .none)) : exec i s = .next t := by
  rw [exec_presents hi, rxByte_none hok hfd]

/-- Settles O34: LF on an aligned codec of nonzero sum raises `CHECKSUM`, whose recovery is the resume (R196). -/
theorem hexChecksumErrorResumes : Obligations.HexChecksumErrorResumes := by
  intro i now s hi hok hfs hphase hsum
  exact exec_presents_none hi hok (fdStep_checksumError (s := heard now s) hfs hphase hsum)

/-- Settles O36: the second digit on a full buffer raises `OVERFLOW`, whose recovery is `decoder_reset` (R198). -/
theorem hexOverflowResets : Obligations.HexOverflowResets := by
  intro b v i now s hi hok hfs hv hphase hfull
  exact exec_presents_none hi hok (fdStep_overflow (s := heard now s) hfs hv hphase hfull)

/-- Settles O23: `':'` is tested first in every state outside `HEX` (R183). -/
theorem colonEntersHex : Obligations.ColonEntersHex := by
  intro i now s from' hi hok hfs
  exact exec_presents_none hi hok (fdStep_colon (s := heard now s) hfs)

/-- Settles O28: CR in `TEXT_VALUE` is `valueCr` at any length of the value (R189). -/
theorem crInValueSummedOnly : Obligations.CrInValueSummedOnly := by
  intro i now s hi hok hfs
  exact exec_presents_none hi hok (fdStep_valueCr (s := heard now s) hfs)

end Sys2Proof.Claims
end

section
/-! PROOF. O43, O57: a request that meets a full ring (R244) and `IS_CONNECTED` (R264). -/

namespace Sys2Proof.Machine

/-- A request that R316 and R346 admit runs its body in the state that has noted its `now` (R241, log 7). -/
theorem request_admitted {cmd : Byte} {reg : Option RegId} {payload : List Byte} {tag : Tag} {now : Time} {s : State}
    (htag : tag ≠ .internal) (hlen : (requestRaw cmd reg payload).length ≤ s.cfg.reqRawCap) (hok : s.nowOk now = true) :
    request cmd reg payload tag now s = requestBody cmd reg payload tag now (stamp now s) := by
  rw [request, if_neg (not_or.2 ⟨htag, Nat.not_lt.2 hlen⟩), timed_ok hok]

/-- At a full ring the body of a request gives the tag back and stores nothing (R244). -/
theorem requestBody_full {s : State} (h : s.q.length = s.cfg.queueCap) (cmd : Byte) (reg : Option RegId)
    (payload : List Byte) (tag : Tag) (now : Time) :
    requestBody cmd reg payload tag now s = giveBack (some false) (emit s (.resolved tag .queueFull none)) := by
  rw [requestBody, enqueue_full h]

end Sys2Proof.Machine

namespace Sys2Proof.Claims

open Sys2Proof.Machine

/-- Every operation that makes a request is `REQUEST` with its command code (R107, R123). -/
theorem exec_asks {cmd : Byte} {reg : Option RegId} {payload : List Byte} {tag : Tag} {now : Time} {i : Instr}
    (h : Asks cmd reg payload tag now i) (s : State) : exec i s = .next (request cmd reg payload tag now s) := by
  cases h with
  | request => rfl
  | ping hcmd | appVersion hcmd | productId hcmd | restart hcmd | get hcmd | set hcmd => subst hcmd; rfl

/-- Settles O43: the request is admitted, and noting its `now` leaves the ring as full as it was. -/
theorem requestQueueFull : Obligations.RequestQueueFull := by
  intro cmd reg payload tag now i s hi htag hlen hok hfull
  have hfull' : (stamp now s).q.length = (stamp now s).cfg.queueCap := by rwa [stamp_q, stamp_cfg]
  rw [exec_asks hi, request_admitted htag hlen hok, requestBody_full hfull']
  rfl

/-- Settles O57: the operation is `giveBack` of the flag, which writes `ret` alone. -/
theorem isConnectedReturnsFlag : Obligations.IsConnectedReturnsFlag := fun _ => rfl

end Sys2Proof.Claims
end

section
/-! PROOF. O1 to O5: the host image and the tables behind it.  A row of a table is known by the bytes it hits; readers undo
writers, and a reader that succeeds says what its bytes were. -/

namespace Sys2Proof

/-! ## The tables, byte by byte -/

/-- The class of a byte by the values R100 and R102 list. -/
theorem rxClass_eq (b : Byte) : rxClass b =
    if b = 0x3A then .colon else if b = 0x0A then .lf else if b = 0x09 then .tab else if b = 0x0D then .cr
    else if b = 0x00 then .nul else if isHexdigitByte b then .hexdigit
    else if isHexdigitLowerByte b then .hexdigitLower else .other := by
  revert b; decide

/-- The request name of a command code (R107). -/
theorem rowOf_reqRows (c : Byte) : rowOf reqRows c =
    if c = 0x01 then some .ping else if c = 0x03 then some .appVersion else if c = 0x04 then some .productId
    else if c = 0x06 then some .restart else if c = 0x07 then some .get else if c = 0x08 then some .set else none := by
  revert c; decide

/-- The reply name of a command code (R107). -/
theorem rowOf_repRows (c : Byte) : rowOf repRows c = some (
    if c = 0x01 then .done else if c = 0x03 then .unknown else if c = 0x04 then .error else if c = 0x05 then .pingResp
    else if c = 0x07 then .get else if c = 0x08 then .set else if c = 0x0A then .async else .unrecognised) := by
  revert c; decide

theorem rowOf_repRows_unrecognised (c : Byte) : rowOf repRows c = some .unrecognised ↔ isUnrecognisedCode c = true := by
  revert c; decide

/-! ## What a row's operation is written as -/

/-- The class row of a byte is well-formed and written as that byte. -/
theorem rxInstr_encode (b : Byte) (now : Time) :
    ((rxClass b).instr b now).wf = true ∧ encode ((rxClass b).instr b now) = encodeRx b now := by
  rw [rxClass_eq]
  split_ifs with h1 h2 h3 h4 h5 h6 h7
  case pos => subst h1; exact ⟨rfl, rfl⟩
  case pos => subst h2; exact ⟨rfl, rfl⟩
  case pos => subst h3; exact ⟨rfl, rfl⟩
  case pos => subst h4; exact ⟨rfl, rfl⟩
  case pos => subst h5; exact ⟨rfl, rfl⟩
  case pos => exact ⟨h6, rfl⟩
  case pos => exact ⟨h7, rfl⟩
  case neg =>
    have hother : isOtherByte b = true := by
      simp only [isOtherByte, h6, h7, beq_iff_eq, Bool.or_eq_true, Bool.not_eq_true', ← Bool.not_eq_true]
      exact fun h => by simp_all
    exact ⟨hother, rfl⟩

/-- A named request is well-formed when its payload fits, and written in form 1 with its command code. -/
theorem reqInstr_encode {cmd : Byte} {name : ReqName} (h : rowOf reqRows cmd = some name) (reg : Option RegId)
    (payload : List Byte) (tag : Tag) (now : Time) :
    (name.instr reg payload tag now).wf = fitsLength payload ∧
    encode (name.instr reg payload tag now) = encodeRequest 1 cmd reg payload tag now := by
  rw [rowOf_reqRows] at h
  split_ifs at h <;> (subst cmd; cases h; exact ⟨rfl, rfl⟩)

/-- A reply row is well-formed when the rest of its frame fits, and written in form 2 with its code. -/
theorem repInstr_encode {code : Byte} {name : RepName} (h : rowOf repRows code = some name) (rest : List Byte) (now : Time) :
    (name.instr code rest now).wf = fitsLength rest ∧
    encode (name.instr code rest now) = encodeReply code rest now := by
  rw [rowOf_repRows, Option.some.injEq] at h
  subst h
  split_ifs with h1 h3 h4 h5 h7 h8 hA
  case neg =>
    have hcode : isUnrecognisedCode code = true := by
      rw [← rowOf_repRows_unrecognised, rowOf_repRows, if_neg h1, if_neg h3, if_neg h4, if_neg h5, if_neg h7, if_neg h8,
        if_neg hA]
    exact ⟨by simp only [RepName.instr, Instr.wf, hcode, Bool.true_and], rfl⟩
  all_goals subst code; exact ⟨rfl, rfl⟩

/-! ## Reading an operation that was written -/

theorem decode_encodeRx (b : Byte) (now : Time) (bs : List Byte) :
    decode (encodeRx b now ++ bs) = .ok ((rxClass b).instr b now, bs) := by
  rw [encodeRx]
  split_ifs with h
  · simp [decode, decodeSelector, decodeRx, bind, Except.bind, h]
  · simp [decode, bind, Except.bind, h]

theorem decode_encodeReply {code : Byte} {name : RepName} (h : rowOf repRows code = some name) {rest : List Byte}
    (hr : fitsLength rest = true) (now : Time) (bs : List Byte) :
    decode (encodeReply code rest now ++ bs) = .ok (name.instr code rest now, bs) := by
  simp [encodeReply, decode, decodeSelector, decodeRx, bind, Except.bind, getBytes_putBytes hr, h]

theorem decode_encodeRequest_plain (cmd : Byte) (reg : Option RegId) {payload : List Byte} (hp : fitsLength payload = true)
    (tag : Tag) (now : Time) (bs : List Byte) :
    decode (encodeRequest 0 cmd reg payload tag now ++ bs) = .ok (.request cmd reg payload tag now, bs) := by
  simp [encodeRequest, decode, decodeSelector, decodeRequest, bind, Except.bind, getBytes_putBytes hp]

theorem decode_encodeRequest_named {cmd : Byte} {name : ReqName} (h : rowOf reqRows cmd = some name) (reg : Option RegId)
    {payload : List Byte} (hp : fitsLength payload = true) (tag : Tag) (now : Time) (bs : List Byte) :
    decode (encodeRequest 1 cmd reg payload tag now ++ bs) = .ok (name.instr reg payload tag now, bs) := by
  simp [encodeRequest, decode, decodeSelector, decodeRequest, bind, Except.bind, getBytes_putBytes hp, h]

/-! ## What was read, operation by operation -/

/-- A chain of readers answers when its first one does and the others do after it. -/
theorem bind_eq_ok {α β : Type} {x : Except DecodeError α} {f : α → Except DecodeError β} {r : β} :
    (x >>= f) = .ok r ↔ ∃ a, x = .ok a ∧ f a = .ok r := by
  cases x <;> simp [bind, Except.bind]

theorem decodeRx_ok {bs rest : List Byte} {i : Instr} (h : decodeRx bs = .ok (i, rest)) :
    i.wf = true ∧ 0x00 :: bs = encode i ++ rest := by
  simp only [decodeRx, bind_eq_ok, Prod.exists] at h
  obtain ⟨form, bs1, h1, h⟩ := h
  obtain rfl := getU8_ok h1
  split_ifs at h with hf0 hf1 hf2
  case pos =>
    simp only [bind_eq_ok, Prod.exists] at h
    obtain ⟨b, bs2, h2, now, bs3, h3, h⟩ := h
    obtain rfl := getU8_ok h2
    obtain rfl := getU32_ok h3
    cases h
    exact ⟨rfl, by simp [encode, hf0]⟩
  case pos =>
    simp only [bind_eq_ok, Prod.exists] at h
    obtain ⟨b, bs2, h2, h⟩ := h
    obtain rfl := getU8_ok h2
    split_ifs at h with hb
    simp only [bind_eq_ok, Prod.exists] at h
    obtain ⟨now, bs3, h3, h⟩ := h
    obtain rfl := getU32_ok h3
    cases h
    obtain ⟨hwf, henc⟩ := rxInstr_encode b now
    exact ⟨hwf, by simp [henc, encodeRx, hb, hf1]⟩
  case pos =>
    simp only [bind_eq_ok, Prod.exists] at h
    obtain ⟨code, bs2, h2, tail, bs3, h3, now, bs4, h4, h⟩ := h
    obtain rfl := getU8_ok h2
    obtain ⟨hfits, rfl⟩ := getBytes_ok h3
    obtain rfl := getU32_ok h4
    cases hrow : rowOf repRows code with
    | none => simp [hrow] at h
    | some name =>
      rw [hrow] at h
      cases h
      obtain ⟨hwf, henc⟩ := repInstr_encode hrow tail now
      exact ⟨hwf.trans hfits, by simp [henc, encodeReply, hf2]⟩

theorem decodeRequest_ok {bs rest : List Byte} {i : Instr} (h : decodeRequest bs = .ok (i, rest)) :
    i.wf = true ∧ 0x02 :: bs = encode i ++ rest := by
  simp only [decodeRequest, bind_eq_ok, Prod.exists] at h
  obtain ⟨form, bs1, h1, cmd, bs2, h2, reg, bs3, h3, payload, bs4, h4, tag, bs5, h5, now, bs6, h6, h⟩ := h
  obtain rfl := getU8_ok h1
  obtain rfl := getU8_ok h2
  obtain rfl := getReg_ok h3
  obtain ⟨hfits, rfl⟩ := getBytes_ok h4
  obtain rfl := getTag_ok h5
  obtain rfl := getU32_ok h6
  split_ifs at h with hf0 hf1
  case pos => cases h; exact ⟨hfits, by simp [encode, encodeRequest, hf0]⟩
  case pos =>
    cases hrow : rowOf reqRows cmd with
    | none => simp [hrow] at h
    | some name =>
      rw [hrow] at h
      cases h
      obtain ⟨hwf, henc⟩ := reqInstr_encode hrow reg payload tag now
      exact ⟨hwf.trans hfits, by simp [henc, encodeRequest, hf1]⟩

theorem decodeSelector_ok {op : Nat} (hop : op < 8) {bs rest : List Byte} {i : Instr}
    (h : decodeSelector op bs = .ok (i, rest)) : i.wf = true ∧ BitVec.ofNat 8 op :: bs = encode i ++ rest := by
  match op, hop with
  | 0, _ => exact decodeRx_ok h
  | 1, _ =>
    simp only [decodeSelector, bind_eq_ok, Prod.exists] at h
    obtain ⟨now, bs1, h1, h⟩ := h
    obtain rfl := getU32_ok h1
    cases h; exact ⟨rfl, rfl⟩
  | 2, _ => exact decodeRequest_ok h
  | 3, _ | 4, _ =>
    simp only [decodeSelector, bind_eq_ok, Prod.exists] at h
    obtain ⟨xs, bs1, h1, h⟩ := h
    obtain ⟨hfits, rfl⟩ := getBytes_ok h1
    cases h; exact ⟨hfits, rfl⟩
  | 5, _ | 6, _ | 7, _ => cases h; exact ⟨rfl, rfl⟩

end Sys2Proof

namespace Sys2Proof.Claims

open Sys2Proof.Machine

/-- Settles O1, row by row: a row's operation is written with the byte that selects the row. -/
theorem decodeEncodeRoundTrip : Obligations.DecodeEncodeRoundTrip := by
  intro i rest hwf
  cases i with
  | rxByte b now => simp [encode, decode, decodeSelector, decodeRx, bind, Except.bind]
  | tick now => simp [encode, decode, decodeSelector, bind, Except.bind]
  | request cmd reg payload tag now => exact decode_encodeRequest_plain cmd reg hwf tag now rest
  | codecEncode raw =>
    have hfits : fitsLength raw = true := hwf
    simp [encode, decode, decodeSelector, bind, Except.bind, getBytes_putBytes hfits]
  | codecReencode chars =>
    have hfits : fitsLength chars = true := hwf
    simp [encode, decode, decodeSelector, bind, Except.bind, getBytes_putBytes hfits]
  | isConnected | reset | reservedOp => rfl
  | rxColon now => exact decode_encodeRx 0x3A now rest
  | rxLf now => exact decode_encodeRx 0x0A now rest
  | rxTab now => exact decode_encodeRx 0x09 now rest
  | rxCr now => exact decode_encodeRx 0x0D now rest
  | rxNul now => exact decode_encodeRx 0x00 now rest
  | rxHexdigit b now => have h := decode_encodeRx b now rest; rwa [rxClass_hexdigit hwf] at h
  | rxHexdigitLower b now => have h := decode_encodeRx b now rest; rwa [rxClass_hexdigitLower hwf] at h
  | rxOther b now => have h := decode_encodeRx b now rest; rwa [rxClass_other hwf] at h
  | reqPing reg payload tag now => exact decode_encodeRequest_named (name := .ping) rfl reg hwf tag now rest
  | reqAppVersion reg payload tag now => exact decode_encodeRequest_named (name := .appVersion) rfl reg hwf tag now rest
  | reqProductId reg payload tag now => exact decode_encodeRequest_named (name := .productId) rfl reg hwf tag now rest
  | reqRestart reg payload tag now => exact decode_encodeRequest_named (name := .restart) rfl reg hwf tag now rest
  | reqGet reg payload tag now => exact decode_encodeRequest_named (name := .get) rfl reg hwf tag now rest
  | reqSet reg payload tag now => exact decode_encodeRequest_named (name := .set) rfl reg hwf tag now rest
  | repDone rest' now => exact decode_encodeReply (name := .done) rfl hwf now rest
  | repUnknown rest' now => exact decode_encodeReply (name := .unknown) rfl hwf now rest
  | repError rest' now => exact decode_encodeReply (name := .error) rfl hwf now rest
  | repPingResp rest' now => exact decode_encodeReply (name := .pingResp) rfl hwf now rest
  | repGet rest' now => exact decode_encodeReply (name := .get) rfl hwf now rest
  | repSet rest' now => exact decode_encodeReply (name := .set) rfl hwf now rest
  | repAsync rest' now => exact decode_encodeReply (name := .async) rfl hwf now rest
  | repUnrecognised code rest' now =>
    obtain ⟨hcode, hfits⟩ := Bool.and_eq_true_iff.1 hwf
    exact decode_encodeReply (rowOf_unrecognised hcode) hfits now rest

/-- Settles O2: a first byte below 8 is a selector and any other a received byte, and both readers say what they read. -/
theorem encodeDecodeRoundTrip : Obligations.EncodeDecodeRoundTrip := by
  intro bs i rest h
  match bs with
  | [] => cases h
  | b :: bs =>
    rw [decode] at h
    split_ifs at h with hb
    · have hdec := decodeSelector_ok hb h
      rwa [BitVec.ofNat_toNat, BitVec.setWidth_eq] at hdec
    · simp only [bind_eq_ok, Prod.exists] at h
      obtain ⟨now, bs1, h1, h⟩ := h
      obtain rfl := getU32_ok h1
      cases h
      obtain ⟨hwf, henc⟩ := rxInstr_encode b now
      exact ⟨hwf, by rw [henc, encodeRx, if_neg hb, List.cons_append]⟩

/-- Settles O3: each word is read by the decoder. -/
theorem specWordsDecode : Obligations.SpecWordsDecode := by
  unfold Obligations.SpecWordsDecode; decide

/-- Settles O4: the rows overlap on no byte, and `rxClass_eq` lists the classes. -/
theorem byteClassesPartition : Obligations.ByteClassesPartition := ⟨by decide, rxClass_eq⟩

/-- Settles O5: the rows are looked up byte by byte; `replyClass` looks at the first byte alone. -/
theorem replyCodesPartition : Obligations.ReplyCodesPartition :=
  ⟨by decide, fun _ _ => rfl, rowOf_repRows_unrecognised, rfl⟩

end Sys2Proof.Claims
end

section
/-! PROOF. O16 to O18: a codec fed hex digits (R144, R145).  One induction says which codec a string of digits leaves behind,
for whatever is fed: a bare codec here, the codec of a receiving block in the frame proofs below. -/

namespace Sys2Proof.Machine

open Sys2Proof.Claims

/-! ## The codec after a string of digits -/

/-- The codec that digit values within the capacity leave behind. -/
def Codec.afterDigits : List Nibble → Codec → Codec
  | hi :: lo :: vs, k =>
    afterDigits vs { raw := k.raw ++ [byteOf hi lo], phase := .aligned, hi := hi, sum := k.sum - byteOf hi lo }
  | [hi], k => { k with hi := hi, phase := .half }
  | [], k => k

theorem afterDigits_raw (vs : List Nibble) (k : Codec) : (k.afterDigits vs).raw = k.raw ++ spell vs := by
  induction vs, k using Codec.afterDigits.induct with
  | case1 hi lo vs k ih => rw [Codec.afterDigits, ih, spell, List.append_assoc, List.singleton_append]
  | case2 hi k | case3 k => exact (List.append_nil _).symm

theorem afterDigits_sum (vs : List Nibble) (k : Codec) :
    (k.afterDigits vs).sum = (spell vs).foldl (fun s b => s - b) k.sum := by
  induction vs, k using Codec.afterDigits.induct with
  | case1 hi lo vs k ih => rw [Codec.afterDigits, ih, spell, List.foldl_cons]
  | case2 hi k | case3 k => rfl

theorem afterDigits_phase (vs : List Nibble) {k : Codec} (h : k.phase = .aligned) :
    (k.afterDigits vs).phase = if vs.length % 2 = 1 then .half else .aligned := by
  induction vs, k using Codec.afterDigits.induct with
  | case1 hi lo vs k ih =>
    rw [Codec.afterDigits, ih rfl, show (hi :: lo :: vs).length = vs.length + 2 from rfl, Nat.add_mod_right]
  | case2 hi k => rfl
  | case3 k => exact h

/-- From a fresh codec: the bytes spelt, and their checksum. -/
@[simp] theorem afterDigits_init_raw (vs : List Nibble) : (Codec.init.afterDigits vs).raw = spell vs :=
  afterDigits_raw vs Codec.init

@[simp] theorem afterDigits_init_sum (vs : List Nibble) : (Codec.init.afterDigits vs).sum = checksum (spell vs) :=
  afterDigits_sum vs Codec.init

@[simp] theorem afterDigits_init_phase (vs : List Nibble) :
    (Codec.init.afterDigits vs).phase = if vs.length % 2 = 1 then .half else .aligned :=
  afterDigits_phase vs rfl

theorem spell_length (vs : List Nibble) : (spell vs).length = vs.length / 2 := by
  induction vs using spell.induct with
  | case1 hi lo vs ih => simp only [spell, List.length_cons, ih]; omega
  | case2 vs h =>
    match vs, h with
    | [], _ => rfl
    | [v], _ => simp [spell]
    | hi :: lo :: vs, h => exact absurd rfl (h hi lo vs)

theorem byteOf_eq_ofNat (hi lo : Nibble) : byteOf hi lo = BitVec.ofNat 8 (hi.toNat * 16 + lo.toNat) := by
  revert hi lo; decide

/-! ## Digit strings -/

theorem eq_nil_of_areDigits {l : Bool} {ds : List Byte} (h : AreDigits l ds []) : ds = [] := List.map_eq_nil_iff.1 h

theorem exists_of_areDigits_cons {l : Bool} {ds : List Byte} {v : Nibble} {vs : List Nibble} (h : AreDigits l ds (v :: vs)) :
    ∃ d ds', ds = d :: ds' ∧ hexval l d = some v ∧ AreDigits l ds' vs := by
  obtain ⟨d, ds', rfl, hd, hds⟩ := List.map_eq_cons_iff.1 h
  exact ⟨d, ds', rfl, hd, hds⟩

theorem areDigits_cons {l : Bool} {d : Byte} {ds : List Byte} {v : Nibble} {vs : List Nibble} :
    AreDigits l (d :: ds) (v :: vs) ↔ hexval l d = some v ∧ AreDigits l ds vs := by
  simp [AreDigits]

theorem areDigits_length {l : Bool} {ds : List Byte} {vs : List Nibble} (h : AreDigits l ds vs) : vs.length = ds.length := by
  simpa using (congrArg List.length h).symm

theorem areDigits_take {l : Bool} {ds : List Byte} {vs : List Nibble} (h : AreDigits l ds vs) (n : Nat) :
    AreDigits l (ds.take n) (vs.take n) := by
  rw [AreDigits, List.map_take, List.map_take, show ds.map (hexval l) = vs.map some from h]

theorem areDigits_getElem {l : Bool} {ds : List Byte} {vs : List Nibble} (h : AreDigits l ds vs) {n : Nat}
    (hn : n < ds.length) : ∃ v, hexval l ds[n] = some v := by
  have hmem : hexval l ds[n] ∈ vs.map some := h ▸ List.mem_map_of_mem (List.getElem_mem hn)
  obtain ⟨v, -, hv⟩ := List.mem_map.1 hmem
  exact ⟨v, hv.symm⟩

/-- The digit values of bytes, high nibble first (R77). -/
def nibbles (bs : List Byte) : List Nibble := bs.flatMap (fun b => [hiNibble b, loNibble b])

theorem areDigits_flatMap_digits (l : Bool) (bs : List Byte) : AreDigits l (bs.flatMap digits) (nibbles bs) := by
  induction bs with
  | nil => rfl
  | cons b bs ih => exact areDigits_cons.2 ⟨hexval_hexdig l _, areDigits_cons.2 ⟨hexval_hexdig l _, ih⟩⟩

@[simp] theorem spell_nibbles (bs : List Byte) : spell (nibbles bs) = bs := by
  induction bs with
  | nil => rfl
  | cons b bs ih => exact congrArg₂ _ (byteOf_nibbles b) ih

/-- The raw bytes of an encoded frame with their checksum sum to the seed (R149, R150). -/
theorem sum_append_checksum (raw : List Byte) : (raw ++ [checksum raw]).sum = 0x55 := by
  rw [List.sum_append, checksumIsSeededDifference]; simp

theorem length_frameDigits (raw : List Byte) : ((raw ++ [checksum raw]).flatMap digits).length = 2 * (raw.length + 1) := by
  rw [length_flatMap_digits, List.length_append, List.length_singleton]

/-! ## Feeding digits -/

/-- Whatever passes characters on while DecodeStep continues passes a string of digits within the capacity on. -/
theorem pass_digits {α : Type} {cap : Nat} {l : Bool} {pass : List Byte → Codec → α}
    (hpass : ∀ (c : Byte) (cs : List Byte) (k k' : Codec), decodeStep cap l c k = (k', .continue) →
      pass (c :: cs) k = pass cs k')
    (vs : List Nibble) {ds : List Byte} (hd : AreDigits l ds vs) {k : Codec} (hk : k.phase = .aligned)
    (hc : k.raw.length + ds.length / 2 ≤ cap) (after : List Byte) :
    pass (ds ++ after) k = pass after (k.afterDigits vs) := by
  induction vs, k using Codec.afterDigits.induct generalizing ds with
  | case1 hi lo vs k ih =>
    obtain ⟨d, ds, rfl, h1, hd⟩ := exists_of_areDigits_cons hd
    obtain ⟨d', ds, rfl, h2, hd⟩ := exists_of_areDigits_cons hd
    have hroom : k.raw.length ≠ cap := by simp only [List.length_cons] at hc; omega
    have hc' : (k.raw ++ [byteOf hi lo]).length + ds.length / 2 ≤ cap := by
      simp only [List.length_append, List.length_cons, List.length_nil] at hc ⊢; omega
    have hlatch := (decodeStep_digit h1 cap k).trans (codecNibble_aligned hk cap hi)
    have hstore := (decodeStep_digit h2 cap _).trans
      (codecNibble_store (cs := { k with hi := hi, phase := .half }) rfl hroom lo)
    calc pass (d :: d' :: (ds ++ after)) k
      _ = pass (d' :: (ds ++ after)) { k with hi := hi, phase := .half } := hpass _ _ _ _ hlatch
      _ = pass (ds ++ after)
            { raw := k.raw ++ [byteOf hi lo], phase := .aligned, hi := hi, sum := k.sum - byteOf hi lo } :=
        hpass _ _ _ _ hstore
      _ = pass after (k.afterDigits (hi :: lo :: vs)) := ih hd rfl hc'
  | case2 hi k =>
    obtain ⟨d, ds, rfl, h1, hd⟩ := exists_of_areDigits_cons hd
    obtain rfl := eq_nil_of_areDigits hd
    exact hpass _ _ _ _ ((decodeStep_digit h1 cap k).trans (codecNibble_aligned hk cap hi))
  | case3 k => rw [eq_nil_of_areDigits hd]; rfl

/-- The first digit too many: the string up to it leaves the buffer full and a first digit latched (R145). -/
theorem exists_overflowing_digit {cap : Nat} {l : Bool} {ds : List Byte} {vs : List Nibble} (hd : AreDigits l ds vs)
    (hc : cap < ds.length / 2) :
    ∃ d rest, ds = ds.take (2 * cap + 1) ++ d :: rest ∧ (ds.take (2 * cap + 2)) = ds.take (2 * cap + 1) ++ [d] ∧
      decodeStep cap l d (Codec.init.afterDigits (vs.take (2 * cap + 1))) =
        (Codec.init.afterDigits (vs.take (2 * cap + 1)), .overflow) := by
  have hlt : 2 * cap + 1 < ds.length := by omega
  obtain ⟨v, hv⟩ := areDigits_getElem hd hlt
  have hlen : (vs.take (2 * cap + 1)).length = 2 * cap + 1 := by
    rw [List.length_take, areDigits_length hd]; omega
  refine ⟨ds[2 * cap + 1], ds.drop (2 * cap + 2), ?_, (List.take_concat_get' ds _ hlt).symm, ?_⟩
  · rw [List.getElem_cons_drop, List.take_append_drop]
  · have hhalf : (Codec.init.afterDigits (vs.take (2 * cap + 1))).phase = .half := by
      rw [afterDigits_init_phase, hlen, if_pos (by omega)]
    have hfull : (Codec.init.afterDigits (vs.take (2 * cap + 1))).raw.length = cap := by
      rw [afterDigits_init_raw, spell_length, hlen]; omega
    exact (decodeStep_digit hv cap _).trans (codecNibble_full hhalf hfull v)

theorem codecFeed_continue {cap : Nat} {l : Bool} (c : Byte) (cs : List Byte) (k k' : Codec)
    (h : decodeStep cap l c k = (k', .continue)) : codecFeed cap l (c :: cs) k = codecFeed cap l cs k' := by
  simp only [codecFeed, h]

theorem codecFeed_end {cap : Nat} {l : Bool} {c : Byte} {k k' : Codec} {r : DecodeResult}
    (h : decodeStep cap l c k = (k', r)) (hr : r ≠ .continue) (cs : List Byte) : codecFeed cap l (c :: cs) k = r := by
  simp only [codecFeed, h]

theorem codecFeed_lf (cap : Nat) (l : Bool) (cs : List Byte) (k : Codec) :
    codecFeed cap l (0x0A :: cs) k = codecEnd k := by
  refine codecFeed_end (decodeStep_lf cap l k) ?_ cs
  rw [codecEnd]
  split_ifs <;> exact DecodeResult.noConfusion

theorem codecFeed_digits {cap : Nat} {l : Bool} {ds : List Byte} {vs : List Nibble} (hd : AreDigits l ds vs)
    (hc : ds.length / 2 ≤ cap) (after : List Byte) :
    codecFeed cap l (ds ++ after) Codec.init = codecFeed cap l after (Codec.init.afterDigits vs) :=
  pass_digits codecFeed_continue vs hd rfl (by simpa [Codec.init] using hc) after

theorem codecFeed_overflow {cap : Nat} {l : Bool} {ds : List Byte} {vs : List Nibble} (hd : AreDigits l ds vs)
    (hc : cap < ds.length / 2) (after : List Byte) :
    codecFeed cap l (ds.take (2 * cap + 2) ++ after) Codec.init = .overflow := by
  obtain ⟨d, rest, -, htake, hstep⟩ := exists_overflowing_digit hd hc
  rw [htake, List.append_assoc, codecFeed_digits (areDigits_take hd _) (by rw [List.length_take]; omega)]
  exact codecFeed_end hstep (by decide) after

/-- LF after an even count of digits judges the bytes spelt by their sum (R147). -/
theorem codecEnd_afterDigits {vs : List Nibble} (h : vs.length % 2 = 0) :
    codecEnd (Codec.init.afterDigits vs) =
      if (spell vs).sum = 0x55 then .valid (spell vs).dropLast else .checksumError := by
  have hsum : checksum (spell vs) = 0 ↔ (spell vs).sum = 0x55 := by
    rw [checksumIsSeededDifference, sub_eq_zero, eq_comm]
  have hphase : (Codec.init.afterDigits vs).phase ≠ .half := by rw [afterDigits_init_phase, if_neg (by omega)]; decide
  rw [codecEnd, if_neg hphase, afterDigits_init_sum, afterDigits_init_raw]
  by_cases h0 : (spell vs).sum = 0x55
  · rw [if_pos h0, if_neg (not_not.2 (hsum.2 h0))]
  · rw [if_neg h0, if_pos (mt hsum.1 h0)]

theorem codecEnd_odd {vs : List Nibble} (h : vs.length % 2 = 1) :
    codecEnd (Codec.init.afterDigits vs) = .codingError := by
  rw [codecEnd, if_pos (by rw [afterDigits_init_phase, if_pos h])]

end Sys2Proof.Machine

namespace Sys2Proof.Claims

open Sys2Proof.Machine

/-- Settles O18: the digits leave the codec of `afterDigits` behind, and LF judges it; the digit too many finds it full. -/
theorem codecValidityLaw : Obligations.CodecValidityLaw := by
  intro cap lowerOk ds vs hd
  have hlen := areDigits_length hd
  refine ⟨fun hodd hc => ?_, fun heven hc => ?_, fun hc => ⟨?_, ?_⟩⟩
  · rw [codecFeed_digits hd hc, codecFeed_lf, codecEnd_odd (by omega)]
  · rw [codecFeed_digits hd hc, codecFeed_lf, codecEnd_afterDigits (by omega)]
  · have h := codecFeed_digits (cap := cap) (areDigits_take hd (2 * cap + 1)) (by rw [List.length_take]; omega) []
    rwa [List.append_nil] at h
  · have h := codecFeed_overflow hd hc []
    rwa [List.append_nil] at h

/-- Settles O17: the frame's characters are the digits of the raw bytes and their checksum, whose sum is 0x55. -/
theorem codecRoundTrip : Obligations.CodecRoundTrip := by
  intro cap lowerOk raw hc
  have hdigits : raw.flatMap digits ++ digits (checksum raw) = (raw ++ [checksum raw]).flatMap digits := by simp
  have hd := areDigits_flatMap_digits lowerOk (raw ++ [checksum raw])
  have hlen := length_frameDigits raw
  constructor
  · have h := codecFeed_digits (cap := cap) hd (by omega) []
    rwa [List.append_nil, ← hdigits] at h
  · obtain ⟨-, heven, -⟩ := codecValidityLaw cap lowerOk _ _ hd
    rw [encodeFrame_eq_flatMap, List.tail_cons]
    rw [spell_nibbles, if_pos (sum_append_checksum raw), List.dropLast_concat] at heven
    exact heven (by omega) (by omega)

/-- Settles O16, by the two cases of `codecNibble`. -/
theorem decodeStepOnDigit : Obligations.DecodeStepOnDigit := by
  intro cap lowerOk c v cs hv
  have hbyte : byteOf cs.hi v = BitVec.ofNat 8 (cs.hi.toNat * 16 + v.toNat) := byteOf_eq_ofNat _ _
  rw [decodeStep_digit hv, ← hbyte]
  exact ⟨fun hp => codecNibble_aligned hp cap v, fun hp hc => codecNibble_full hp hc v,
    fun hp hc => (codecNibble_store hp hc v).trans rfl⟩

/-- Settles O19: the empty frame is the one of length 0. -/
theorem codecEncodeOutcome : Obligations.CodecEncodeOutcome := by
  intro raw s
  cases raw <;> rfl

end Sys2Proof.Claims
end

section
/-! PROOF. O20, O21: CODEC_REENCODE is one codec fed to its end and a verdict on the result (R153). -/

namespace Sys2Proof.Machine

open Sys2Proof.Claims

/-- The event CODEC_REENCODE makes of what its scratch codec came to; an unended string is `CODING`. -/
def reencodeVerdict (c : Config) : DecodeResult → Event
  | .continue => .codecError .coding
  | .valid d => encodeEvent c d
  | .terminated d => encodeEvent c d
  | .checksumError => .codecError .checksum
  | .codingError => .codecError .coding
  | .overflow => .codecError .overflow

theorem reencodeLoop_eq (c : Config) (chars : List Byte) (k : Codec) :
    reencodeLoop c chars k = reencodeVerdict c (codecFeed (c.reqRawCap + 1) c.hexLowerOk chars k) := by
  induction chars generalizing k with
  | nil => rfl
  | cons ch rest ih =>
    rw [reencodeLoop, codecFeed]
    cases decodeStep (c.reqRawCap + 1) c.hexLowerOk ch k with
    | mk k' r =>
      cases r with
      | valid _ | terminated _ | checksumError | codingError | overflow => rfl
      | _ => exact ih k'

theorem reencodeEvent_of_fits {c : Config} {chars : List Byte} (h : chars.length ≤ c.encCap) :
    reencodeEvent c chars =
      reencodeVerdict c (codecFeed (c.reqRawCap + 1) c.hexLowerOk (skipColon chars) Codec.init) := by
  rw [reencodeEvent, if_neg (Nat.not_lt.2 h), reencodeLoop_eq]

/-- Every event a codec host operation gives: an encoded frame within the request bound, or a codec error. -/
def IsCodecVerdict (c : Config) (e : Event) : Prop :=
  (∃ err, e = .codecError err ∧ (err = .checksum ∨ err = .coding ∨ err = .overflow)) ∨
  (∃ raw, e = .encoded (encodeFrame raw) ∧ 1 ≤ raw.length ∧ raw.length ≤ c.reqRawCap)

theorem encodeEvent_isCodecVerdict (c : Config) (raw : List Byte) : IsCodecVerdict c (encodeEvent c raw) := by
  rw [encodeEvent]
  split_ifs with hnil hlong
  · exact .inl ⟨_, rfl, by decide⟩
  · exact .inl ⟨_, rfl, by decide⟩
  · exact .inr ⟨raw, rfl, List.length_pos_iff.2 hnil, Nat.not_lt.1 hlong⟩

theorem reencodeEvent_isCodecVerdict (c : Config) (chars : List Byte) : IsCodecVerdict c (reencodeEvent c chars) := by
  by_cases hfits : chars.length ≤ c.encCap
  · rw [reencodeEvent_of_fits hfits]
    cases codecFeed (c.reqRawCap + 1) c.hexLowerOk (skipColon chars) Codec.init with
    | valid raw | terminated raw => exact encodeEvent_isCodecVerdict c raw
    | _ => exact .inl ⟨_, rfl, by decide⟩
  · rw [reencodeEvent, if_pos (Nat.not_le.1 hfits)]
    exact .inl ⟨_, rfl, by decide⟩

/-- A leading `':'` is skipped; digits with nothing of the kind before them are not. -/
theorem skipColon_digits {lead ds after : List Byte} {l : Bool} {vs : List Nibble} (hlead : lead = [] ∨ lead = [0x3A])
    (hd : AreDigits l ds vs) (hafter : lead = [] → ds = [] → after.head? ≠ some chColon) :
    skipColon (lead ++ ds ++ after) = ds ++ after := by
  obtain rfl | rfl := hlead
  · match vs, hd with
    | [], hd =>
      obtain rfl := eq_nil_of_areDigits hd
      match after, hafter rfl rfl with
      | [], _ => rfl
      | c :: cs, h => exact if_neg (fun hc => h (congrArg some hc))
    | v :: vs, hd =>
      obtain ⟨d, ds, rfl, hv, -⟩ := exists_of_areDigits_cons hd
      exact if_neg (hexval_some_ne hv).2.2
  · rfl

/-- A character that is no digit ends the string: LF, NUL, or a coding error (R142, R143, R146). -/
theorem codecFeed_nonDigit {l : Bool} {c : Byte} (h : hexval l c = none) (cap : Nat) (after : List Byte) (k : Codec) :
    codecFeed cap l (c :: after) k =
      if c = 0x0A then codecEnd k else if c = 0x00 then codecNul k else .codingError := by
  by_cases hlf : c = 0x0A
  · rw [if_pos hlf, hlf]; exact codecFeed_lf cap l after k
  · rw [if_neg hlf]
    by_cases hnul : c = 0x00
    · rw [if_pos hnul, hnul]
      refine codecFeed_end (decodeStep_nul cap l k) ?_ after
      rw [codecNul_eq_ite]
      split <;> exact DecodeResult.noConfusion
    · rw [if_neg hnul]
      exact codecFeed_end (decodeStep_other h hlf hnul cap k) DecodeResult.noConfusion after

theorem codecNul_afterDigits (vs : List Nibble) :
    codecNul (Codec.init.afterDigits vs) = if vs.length % 2 = 1 then .codingError else .terminated (spell vs) := by
  rw [codecNul_eq_ite, afterDigits_init_phase, afterDigits_init_raw]
  by_cases h : vs.length % 2 = 1 <;> simp [h]

end Sys2Proof.Machine

namespace Sys2Proof.Claims

open Sys2Proof.Machine

theorem reencodes_of_event {s : State} {chars : List Byte} {e : Event} (h : reencodeEvent s.cfg chars = e) :
    Reencodes s chars e := by
  subst h; rfl

/-- The verdict on digits and what follows them, after an optional `':'` (R153). -/
theorem reencodes_digits {s : State} {lead ds after : List Byte} {vs : List Nibble}
    (hfits : (lead ++ ds ++ after).length ≤ s.cfg.encCap) (hlead : lead = [] ∨ lead = [0x3A])
    (hd : AreDigits s.cfg.hexLowerOk ds vs) (hafter : lead = [] → ds = [] → after.head? ≠ some chColon) :
    Reencodes s (lead ++ ds ++ after) (reencodeVerdict s.cfg
      (codecFeed (s.cfg.reqRawCap + 1) s.cfg.hexLowerOk (ds ++ after) Codec.init)) :=
  reencodes_of_event (by rw [reencodeEvent_of_fits hfits, skipColon_digits hlead hd hafter])

/-- Settles O20: the codec's answer on digits and the character that ends them, then the verdict on that answer. -/
theorem codecReencodeOutcome : Obligations.CodecReencodeOutcome := by
  intro chars s
  refine ⟨⟨_, rfl, reencodeEvent_isCodecVerdict s.cfg chars⟩, fun hlong => reencodes_of_event (if_pos hlong), ?_⟩
  intro lead ds after vs hfits hlead hd
  have hlen := areDigits_length hd
  refine ⟨?_, ?_, ?_⟩
  · rintro rfl hlong
    have h := reencodes_digits hfits hlead hd (by rintro - rfl; simp at hlong)
    have hsplit : ds ++ after =
        ds.take (2 * (s.cfg.reqRawCap + 1) + 2) ++ (ds.drop (2 * (s.cfg.reqRawCap + 1) + 2) ++ after) := by
      rw [← List.append_assoc, List.take_append_drop]
    rwa [hsplit, codecFeed_overflow hd hlong] at h
  · rintro rfl hroom
    have h := reencodes_digits (after := []) (by rwa [List.append_nil]) hlead hd (by simp)
    rwa [List.append_nil, codecFeed_digits hd hroom] at h
  · rintro c rfl hroom hc hcolon
    have hend := codecFeed_digits hd hroom ([c] ++ after)
    rw [List.singleton_append, codecFeed_nonDigit hc] at hend
    have h := reencodes_digits (after := [c] ++ after) (by rwa [← List.append_assoc]) hlead hd
      (fun h1 h2 h3 => hcolon h1 h2 (Option.some.inj h3))
    rw [← List.append_assoc, List.singleton_append, hend] at h
    refine ⟨fun hodd => ?_, fun hlf hnul => ?_, ?_, ?_⟩
    · have hodd' : vs.length % 2 = 1 := by omega
      rw [codecEnd_odd hodd', codecNul_afterDigits, if_pos hodd', ite_self, ite_self] at h
      exact h
    · rw [if_neg hlf, if_neg hnul] at h
      exact h
    · rintro heven rfl
      rw [if_pos rfl, codecEnd_afterDigits (by omega)] at h
      by_cases hsum : (spell vs).sum = 0x55
      · have hnil : (spell vs).dropLast = [] ↔ (spell vs).length ≤ 1 := by
          rw [← List.length_eq_zero_iff, List.length_dropLast]; omega
        have hshort : ¬ s.cfg.reqRawCap < (spell vs).dropLast.length := by
          rw [List.length_dropLast, spell_length]; omega
        rw [if_pos hsum, reencodeVerdict, encodeEvent, if_neg hshort] at h
        simpa only [hnil, if_neg (not_not.2 hsum)] using h
      · rw [if_neg hsum] at h
        rw [if_pos hsum]
        exact h
    · rintro heven rfl
      rw [if_neg (by decide), if_pos rfl, codecNul_afterDigits, if_neg (by omega)] at h
      exact h

/-- Settles O21, from the clauses of O20 for NUL and for LF: the bytes the digits spell are the raw ones, and with their
checksum they sum to 0x55. -/
theorem reencodeAddsChecksum : Obligations.ReencodeAddsChecksum := by
  intro raw after chars s hpos hcap hfits hchars
  have hd := areDigits_flatMap_digits s.cfg.hexLowerOk raw
  have hlen := length_flatMap_digits raw
  have hne : raw ≠ [] := List.length_pos_iff.1 hpos
  have hnul : ∀ lead : List Byte, lead = [] ∨ lead = [0x3A] → chars = lead ++ raw.flatMap digits ++ [0x00] ++ after →
      Reencodes s chars (.encoded (encodeFrame raw)) := by
    intro lead hlead hchars
    obtain ⟨-, -, hclauses⟩ := codecReencodeOutcome chars s
    obtain ⟨-, -, hended⟩ := hclauses lead _ after _ hfits hlead hd
    obtain ⟨-, -, -, hnul⟩ := hended 0x00 hchars (by omega) (hexval_nul _) (fun _ _ => by decide)
    have h := hnul (by omega) rfl
    rwa [spell_nibbles, if_neg hne, if_neg (Nat.not_lt.2 hcap)] at h
  obtain h | h | h := hchars
  · exact hnul [] (.inl rfl) h
  · exact hnul [0x3A] (.inr rfl) h
  · have hd' := areDigits_flatMap_digits s.cfg.hexLowerOk (raw ++ [checksum raw])
    have hlen' := length_frameDigits raw
    obtain ⟨-, -, hclauses⟩ := codecReencodeOutcome chars s
    obtain ⟨-, -, hended⟩ := hclauses [0x3A] _ after _ hfits (.inr rfl) hd'
    obtain ⟨-, -, hlf, -⟩ := hended 0x0A (by simp [h, encodeFrame_eq_flatMap]) (by omega)
      (hexval_lf _) (fun _ _ => by decide)
    have h := hlf (by omega) rfl
    rwa [spell_nibbles, if_neg (not_not.2 (sum_append_checksum raw)), if_neg (by simpa using hne), List.dropLast_concat] at h

end Sys2Proof.Claims
end

section
/-! PROOF. O45 to O47, O60, O9: what each operation does to the ring, as one relation that composes along the parts of an
operation (R265, R266). -/

namespace Sys2Proof.Machine

open Sys2Proof.Claims

/-! ## Requests that enter and leave -/

@[simp] theorem completions_append (es es' : List Event) : completions (es ++ es') = completions es ++ completions es' :=
  List.filterMap_append

/-- The oldest requests left the ring, one resolution each, in order; `added` entered it. -/
structure RingMoved (s t : State) (es : List Event) (done added : List Slot) : Prop where
  ev : t.ev = s.ev ++ es
  ring : s.q ++ added = done ++ t.q
  resolved : completions es = done.map Slot.tag

theorem RingMoved.refl (s : State) : RingMoved s s [] [] [] := ⟨(List.append_nil _).symm, List.append_nil _, rfl⟩

/-- Nothing left and nothing entered. -/
theorem RingMoved.of_quiet {s t : State} {es : List Event} (hev : t.ev = s.ev ++ es) (hq : t.q = s.q)
    (hes : completions es = []) : RingMoved s t es [] [] := ⟨hev, by simp [hq], hes⟩

theorem RingMoved.trans {s t u : State} {es es' : List Event} {done done' added added' : List Slot}
    (h : RingMoved s t es done added) (h' : RingMoved t u es' done' added') :
    RingMoved s u (es ++ es') (done ++ done') (added ++ added') where
  ev := by rw [h'.ev, h.ev, List.append_assoc]
  ring := by rw [← List.append_assoc, h.ring, List.append_assoc, h'.ring, List.append_assoc]
  resolved := by rw [completions_append, h.resolved, h'.resolved, List.map_append]

/-- A move in which only the block's own requests enter. -/
def MovedByBlock (s t : State) : Prop :=
  ∃ es done added, RingMoved s t es done added ∧ ∀ r ∈ added, r.tag = .internal

/-- A move in which nothing leaves either. -/
def GrownByBlock (s t : State) : Prop :=
  ∃ es added, RingMoved s t es [] added ∧ (∀ r ∈ added, r.tag = .internal) ∧ t.qHead = s.qHead

theorem GrownByBlock.moved {s t : State} (h : GrownByBlock s t) : MovedByBlock s t := by
  obtain ⟨es, added, hmoved, hown, -⟩ := h
  exact ⟨es, [], added, hmoved, hown⟩

theorem GrownByBlock.trans {s t u : State} (h : GrownByBlock s t) (h' : GrownByBlock t u) : GrownByBlock s u := by
  obtain ⟨es, added, hmoved, hown, hhead⟩ := h
  obtain ⟨es', added', hmoved', hown', hhead'⟩ := h'
  exact ⟨_, _, hmoved.trans hmoved', fun r hr => (List.mem_append.1 hr).elim (hown r) (hown' r), hhead'.trans hhead⟩

theorem GrownByBlock.of_quiet {s t : State} {es : List Event} (hev : t.ev = s.ev ++ es) (hq : t.q = s.q)
    (hes : completions es = []) (hhead : t.qHead = s.qHead) : GrownByBlock s t :=
  ⟨es, [], .of_quiet hev hq hes, nofun, hhead⟩

/-- Neither the trace nor the ring was touched. -/
theorem GrownByBlock.of_same {s t : State} (hev : t.ev = s.ev) (hq : t.q = s.q) (hhead : t.qHead = s.qHead) :
    GrownByBlock s t := .of_quiet (es := []) (hev.trans (List.append_nil _).symm) hq rfl hhead

theorem GrownByBlock.refl (s : State) : GrownByBlock s s := .of_same rfl rfl rfl

theorem MovedByBlock.trans {s t u : State} (h : MovedByBlock s t) (h' : MovedByBlock t u) : MovedByBlock s u := by
  obtain ⟨es, done, added, hmoved, hown⟩ := h
  obtain ⟨es', done', added', hmoved', hown'⟩ := h'
  exact ⟨_, _, _, hmoved.trans hmoved', fun r hr => (List.mem_append.1 hr).elim (hown r) (hown' r)⟩

/-! ## The ring operations -/

theorem enqueue_qHead (r : Slot) (now : Time) (s : State) : (enqueue r now s).1.qHead = s.qHead := by
  rw [enqueue_frame]

/-- A request enters as the newest one or is given back at once; none leaves (R243, R244). -/
theorem enqueue_moved (r : Slot) (now : Time) (s : State) :
    ∃ es, RingMoved s (enqueue r now s).1 es [] (if (enqueue r now s).2 = true then [r] else []) := by
  by_cases hfull : s.q.length = s.cfg.queueCap
  · rw [enqueue_full hfull]
    exact ⟨_, .of_quiet rfl rfl rfl⟩
  · by_cases hq : s.q = []
    · have hcap : s.cfg.queueCap ≠ 0 := fun h => hfull (by rw [hq, h]; rfl)
      rw [enqueue_empty hq hcap]
      exact ⟨_, rfl, by simp [hq], rfl⟩
    · rw [enqueue_behind hq hfull]
      exact ⟨[], (List.append_nil _).symm, rfl, rfl⟩

theorem enqueue_grown {r : Slot} (hr : r.tag = .internal) (now : Time) (s : State) :
    GrownByBlock s (enqueue r now s).1 := by
  obtain ⟨es, hmoved⟩ := enqueue_moved r now s
  refine ⟨es, _, hmoved, fun r' hr' => ?_, enqueue_qHead r now s⟩
  split at hr'
  · rwa [List.mem_singleton.1 hr']
  · cases hr'

theorem sweepNext_grown (now : Time) (s : State) : GrownByBlock s (sweepNext now s) := by
  cases hk : s.cfg.pollKeys[s.sweepCursor]? with
  | none => rw [sweepNext_end hk]; exact .of_same rfl rfl rfl
  | some k =>
    rw [sweepNext_key hk]
    exact GrownByBlock.trans (t := { s with sweepCursor := s.sweepCursor + 1 }) (.of_same rfl rfl rfl)
      (enqueue_grown rfl now _)

theorem maybeConnect_grown (now : Time) (s : State) : GrownByBlock s (maybeConnect now s) := by
  by_cases hc : s.connected = true
  · rw [maybeConnect_connected hc]; exact .refl s
  · rw [Bool.not_eq_true] at hc
    cases hx : (s.cfg.hexEnabled && s.cfg.indexNonempty) with
    | false => rw [maybeConnect_quiet hc hx]; exact .of_same rfl rfl rfl
    | true =>
      rw [maybeConnect_sweep hc hx]
      exact GrownByBlock.trans (t := { s with connected := true, sweepActive := true, sweepCursor := 0 })
        (.of_same rfl rfl rfl) (enqueue_grown rfl now _)

/-- Resolving the head takes it out of the ring with one resolution (R246). -/
theorem resolveHead_moved {st : Status} (hst : st ≠ .queueFull) (reply : Option (List Byte)) (now : Time) (s : State) :
    MovedByBlock s (resolveHead st reply now s) := by
  have hdone : ∀ tag : Tag, completions [.resolved tag st reply] = [tag] := fun tag => by simp [completions, hst]
  match hq : s.q with
  | [] => rw [resolveHead_nil hq]; exact (GrownByBlock.refl s).moved
  | [r] =>
    have hpop : MovedByBlock s (popHead [] (emit s (.resolved r.tag st reply))) :=
      ⟨_, [r], [], ⟨rfl, by simp [hq], hdone r.tag⟩, nofun⟩
    rw [resolveHead_last hq]
    dsimp only
    split
    · exact hpop.trans (sweepNext_grown now _).moved
    · exact hpop
  | r :: r' :: more =>
    rw [resolveHead_next hq]
    exact ⟨_, [r], [], ⟨rfl, by simp [hq], (completions_append [.resolved r.tag st reply] [.tx _]).trans
      (by rw [hdone]; rfl)⟩, nofun⟩

theorem onHexReply_moved (raw : List Byte) (now : Time) (s : State) : MovedByBlock s (onHexReply raw now s) := by
  obtain h | ⟨st, -, h, hst⟩ := onHexReply_cases raw now s <;> rw [h]
  · exact (GrownByBlock.refl s).moved
  · exact resolveHead_moved hst _ now s

/-- Taking the link down resolves every request in order (R261). -/
theorem linkDown_moved (s : State) : MovedByBlock s (linkDown s) := by
  rw [linkDown_eq]
  refine ⟨s.q.map (fun r => .resolved r.tag .timeout none) ++ [.linkDown], s.q, [],
    ⟨List.append_assoc _ _ _, by simp, ?_⟩, nofun⟩
  rw [completions_append]
  induction s.q with
  | nil => rfl
  | cons r rest ih => exact congrArg (r.tag :: ·) ih

/-! ## Bytes, frames and ticks -/

/-- The decoder resolves nothing by itself. -/
theorem ByteFrame.grown {s : State} {r : State × FdResult} (h : ByteFrame s r) : GrownByBlock s r.1 := by
  obtain ⟨hd, hev⟩ := h
  obtain ⟨raw, -, -, hev⟩ | ⟨recs, -, -, hev⟩ | ⟨-, hev | ⟨code, path, hev⟩⟩ := hev
  case inr.inr.inl => exact .of_same hev hd.q hd.qHead
  all_goals exact .of_quiet hev hd.q rfl hd.qHead

theorem deliver_moved (now : Time) {fd : State → State × FdResult} (hfd : ∀ x, ByteFrame x (fd x)) (s : State) :
    MovedByBlock s (deliver now fd s) := by
  have hframe : GrownByBlock s (fd (giveBack none { s with lastRx := now })).1 :=
    GrownByBlock.trans (t := giveBack none { s with lastRx := now }) (.of_same rfl rfl rfl) (hfd _).grown
  cases hr : fd (giveBack none { s with lastRx := now }) with
  | mk t result =>
    rw [hr] at hframe
    cases result with
    | none => rw [deliver_none hr]; exact hframe.moved
    | hexFrame raw =>
      rw [deliver_hexFrame hr]
      exact (hframe.moved.trans (onHexReply_moved raw now t)).trans (maybeConnect_grown now _).moved
    | textFrame recs => rw [deliver_textFrame hr]; exact (hframe.trans (maybeConnect_grown now t)).moved

theorem refuse_grown (s : State) : GrownByBlock s (refuse s) := .of_same rfl rfl rfl

theorem timed_deliver_moved (now : Time) {fd : State → State × FdResult} (hfd : ∀ x, ByteFrame x (fd x)) (s : State) :
    MovedByBlock s (timed now (deliver now fd) s) := by
  cases hok : s.nowOk now with
  | true =>
    rw [timed_ok hok]
    exact (GrownByBlock.of_same (s := s) (t := stamp now s) rfl rfl rfl).moved.trans (deliver_moved now hfd _)
  | false => rw [timed_bad hok]; exact (refuse_grown s).moved

theorem feed_moved (now : Time) (bs : List Byte) (s : State) : MovedByBlock s (feed now bs s) := by
  induction bs generalizing s with
  | nil => exact (GrownByBlock.refl s).moved
  | cons b bs ih => exact (timed_deliver_moved now (fdStep_frame b) s).trans (ih _)

theorem tick_moved (now : Time) (s : State) : MovedByBlock s (tick now s) := by
  have hstamp : MovedByBlock s (giveBack none (stampTick now s)) :=
    GrownByBlock.moved (.of_same rfl rfl rfl)
  rw [tick, tickBody]
  split_ifs
  · exact hstamp.trans (linkDown_moved _)
  · exact hstamp.trans (resolveHead_moved Status.noConfusion _ now _)
  · exact hstamp
  · exact (refuse_grown s).moved

/-- A request enters the ring exactly when the operation returns true, and resolves nothing that was in it. -/
theorem request_moved (cmd : Byte) (reg : Option RegId) (payload : List Byte) (tag : Tag) (now : Time) (s : State) :
    ∃ es, RingMoved s (request cmd reg payload tag now s) es []
      (if (request cmd reg payload tag now s).ret = some true then
        [{ raw := requestRaw cmd reg payload, cmd := cmd, reg := reg, tag := tag }] else []) := by
  have hrefuse : ∃ es, RingMoved s (refuse s) es [] (if (refuse s).ret = some true then
      [{ raw := requestRaw cmd reg payload, cmd := cmd, reg := reg, tag := tag }] else []) :=
    ⟨[], .of_quiet (by simp) rfl rfl⟩
  rw [request]
  split
  · exact hrefuse
  · cases hok : s.nowOk now with
    | false => rw [timed_bad hok]; exact hrefuse
    | true =>
      obtain ⟨es, hmoved⟩ := enqueue_moved { raw := requestRaw cmd reg payload, cmd := cmd, reg := reg, tag := tag } now
        (stamp now s)
      rw [timed_ok hok]
      refine ⟨es, hmoved.ev, ?_, hmoved.resolved⟩
      have hring := hmoved.ring
      simpa [requestBody] using hring

end Sys2Proof.Machine

namespace Sys2Proof.Claims

open Sys2Proof.Machine

/-- An operation makes at most one request. -/
theorem asks_unique {cmd cmd' : Byte} {reg reg' : Option RegId} {payload payload' : List Byte} {tag tag' : Tag}
    {now now' : Time} {i : Instr} (h : Asks cmd reg payload tag now i) (h' : Asks cmd' reg' payload' tag' now' i) :
    cmd = cmd' ∧ reg = reg' ∧ payload = payload' ∧ tag = tag' := by
  cases h <;> cases h' <;> simp_all

/-- What makes no request brings no request of the host's. -/
theorem exec_movedByBlock {i : Instr} {s t : State} (h : exec i s = .next t) (hreset : i ≠ .reset)
    (hasks : ¬ ∃ cmd reg payload tag now, Asks cmd reg payload tag now i) : MovedByBlock s t := by
  cases i <;> cases h
  case rxByte b now => exact timed_deliver_moved now (fdStep_frame b) s
  case tick now => exact tick_moved now s
  case codecEncode raw =>
    have hnone : completions [encodeEvent s.cfg raw] = [] := by rw [encodeEvent]; split_ifs <;> rfl
    exact GrownByBlock.moved (.of_quiet (giveBack_ev _ _) rfl hnone rfl)
  case codecReencode chars =>
    have hnone : completions [reencodeEvent s.cfg chars] = [] := by
      obtain ⟨err, he, -⟩ | ⟨raw, he, -⟩ := reencodeEvent_isCodecVerdict s.cfg chars <;> rw [he] <;> rfl
    exact GrownByBlock.moved (.of_quiet (giveBack_ev _ _) rfl hnone rfl)
  case isConnected => exact GrownByBlock.moved (.of_same (giveBack_ev _ _) rfl rfl)
  case reset => exact absurd rfl hreset
  case reservedOp => exact (refuse_grown s).moved
  case rxColon now => exact timed_deliver_moved now mapColon_frame s
  case rxLf now => exact timed_deliver_moved now mapLf_frame s
  case rxTab now => exact timed_deliver_moved now mapTab_frame s
  case rxCr now => exact timed_deliver_moved now mapCr_frame s
  case rxNul now => exact timed_deliver_moved now mapNul_frame s
  case rxHexdigit b now => exact timed_deliver_moved now (mapHexdigit_frame b) s
  case rxHexdigitLower b now => exact timed_deliver_moved now (mapHexdigitLower_frame b) s
  case rxOther b now => exact timed_deliver_moved now (mapOther_frame b) s
  case request => exact absurd ⟨_, _, _, _, _, .request⟩ hasks
  case reqPing => exact absurd ⟨_, _, _, _, _, .ping rfl⟩ hasks
  case reqAppVersion => exact absurd ⟨_, _, _, _, _, .appVersion rfl⟩ hasks
  case reqProductId => exact absurd ⟨_, _, _, _, _, .productId rfl⟩ hasks
  case reqRestart => exact absurd ⟨_, _, _, _, _, .restart rfl⟩ hasks
  case reqGet => exact absurd ⟨_, _, _, _, _, .get rfl⟩ hasks
  case reqSet => exact absurd ⟨_, _, _, _, _, .set rfl⟩ hasks
  all_goals exact feed_moved _ _ s

/-- Settles O60: a request is the one thing that brings a host's slot in, and every other operation is a chain of moves. -/
theorem requestsCompleteInOrder : Obligations.RequestsCompleteInOrder := by
  intro i s t h hreset
  by_cases hasks : ∃ cmd reg payload tag now, Asks cmd reg payload tag now i
  · obtain ⟨cmd, reg, payload, tag, now, hi⟩ := hasks
    rw [exec_asks hi] at h
    cases h
    obtain ⟨es, hev, hring, hres⟩ := request_moved cmd reg payload tag now s
    refine ⟨es, [], _, hev, hring, hres, fun _ _ => .inr ⟨cmd, reg, payload, tag, now, hi⟩, ?_⟩
    intro cmd' reg' payload' tag' now' hi'
    obtain ⟨rfl, rfl, rfl, rfl⟩ := asks_unique hi hi'
    rfl
  · obtain ⟨es, done, added, hmoved, hown⟩ := exec_movedByBlock h hreset hasks
    exact ⟨es, done, added, hmoved.ev, hmoved.ring, hmoved.resolved, fun r hr => .inl (hown r hr),
      fun cmd reg payload tag now hi => absurd ⟨cmd, reg, payload, tag, now, hi⟩ hasks⟩

/-- Settles O9, from O60: every move of the ring appends its events. -/
theorem traceAppendOnly : Obligations.TraceAppendOnly := by
  intro i s t h
  refine ⟨fun hreset => ?_, ?_⟩
  · obtain ⟨es, -, -, hev, -⟩ := requestsCompleteInOrder i s t h hreset
    exact ⟨es, hev⟩
  · rintro rfl
    cases h
    rfl

end Sys2Proof.Claims
end

section
/-! PROOF. O42, O44 to O47: requests, refusals and the ring operations by themselves (R241 to R247, R258, R316). -/

namespace Sys2Proof.Machine

open Sys2Proof.Claims

theorem lo8_eq_setWidth (r : RegId) : lo8 r = r.setWidth 8 := by
  apply BitVec.eq_of_getLsbD_eq
  intro i hi
  simp [lo8, BitVec.getLsbD_extractLsb']

theorem hi8_eq_setWidth (r : RegId) : hi8 r = (r >>> 8).setWidth 8 := by
  apply BitVec.eq_of_getLsbD_eq
  intro i hi
  simp [hi8, BitVec.getLsbD_extractLsb']

theorem requestRaw_some (cmd : Byte) (r : RegId) (payload : List Byte) :
    requestRaw cmd (some r) payload = cmd :: r.setWidth 8 :: (r >>> 8).setWidth 8 :: 0x00 :: payload := by
  rw [← lo8_eq_setWidth, ← hi8_eq_setWidth]; rfl

theorem getSlot_eq (k : RegId) : getSlot k =
    { raw := [0x07, k.setWidth 8, (k >>> 8).setWidth 8, 0x00], cmd := 0x07, reg := some k, tag := .internal } := by
  rw [getSlot, lo8_eq_setWidth, hi8_eq_setWidth]

/-- The state in which a first frame enqueues the keepalive `Ping` (R258). -/
def connecting (s : State) : State := { s with connected := true, sweepActive := true, sweepCursor := 0 }

theorem passed_eq_sinceLast (now : Time) (s : State) : passed now s = s.sinceLast now := by
  rw [passed, State.sinceLast]
  cases s.lastNow <;> rfl

/-- A `now` is refused exactly when it breaks R346 (log 7). -/
theorem nowOk_eq_false_iff {now : Time} {s : State} : s.nowOk now = false ↔ BadNow now s := by
  rw [← Bool.not_eq_true, nowOk_iff, BadNow, passed_eq_sinceLast, not_and_or, not_and_or, Classical.not_imp,
    Classical.not_imp, Nat.not_lt, Nat.not_lt, Nat.not_lt]

theorem tickGapOk_eq_false_iff {now : Time} {s : State} : s.tickGapOk now = false ↔
    ∃ g, s.tickGap = some g ∧ 2 ^ 31 - max s.cfg.commandTimeout.toNat s.cfg.linkTimeout.toNat ≤ g + passed now s := by
  rw [State.tickGapOk, passed_eq_sinceLast]
  cases hgap : s.tickGap with
  | none => simp
  | some g => simp only [decide_eq_false_iff_not, Nat.not_lt, Option.some.injEq, exists_eq_left']

theorem tick_refused {now : Time} {s : State} (h : s.nowOk now = false ∨ s.tickGapOk now = false) :
    tick now s = refuse s := by
  rw [tick, if_neg]
  rw [Bool.and_eq_true]
  rintro ⟨hnow, hgap⟩
  obtain h | h := h
  · exact Bool.false_ne_true (h.symm.trans hnow)
  · exact Bool.false_ne_true (h.symm.trans hgap)

theorem tick_admitted {now : Time} {s : State} (hnow : s.nowOk now = true) (hgap : s.tickGapOk now = true) :
    tick now s = tickBody now (giveBack none (stampTick now s)) := by
  rw [tick, hnow, hgap]; rfl

theorem request_refused {cmd : Byte} {reg : Option RegId} {payload : List Byte} {tag : Tag} {now : Time} {s : State}
    (h : tag = .internal ∨ s.cfg.reqRawCap < (requestRaw cmd reg payload).length ∨ s.nowOk now = false) :
    request cmd reg payload tag now s = refuse s := by
  rw [request]
  split
  · rfl
  · rename_i hadmitted
    rw [not_or] at hadmitted
    obtain h | h | h := h
    · exact absurd h hadmitted.1
    · exact absurd h hadmitted.2
    · exact timed_bad h _

end Sys2Proof.Machine

namespace Sys2Proof.Claims

open Sys2Proof.Machine

/-- Settles O42: the ring takes the slot, and the head is transmitted when it is the only one. -/
theorem requestAccepted : Obligations.RequestAccepted := by
  rintro cmd reg payload tag now i s raw hi htag hraw hlen hok hroom
  obtain rfl : raw = requestRaw cmd reg payload := by
    cases reg with
    | none => exact hraw
    | some r => exact hraw.trans (requestRaw_some cmd r payload).symm
  rw [exec_asks hi, request_admitted htag hlen hok]
  constructor
  · intro hq
    rw [requestBody, enqueue_empty (s := stamp now s) hq (by rw [hq] at hroom; exact (Nat.ne_of_gt hroom))]
    rfl
  · intro hq
    rw [requestBody, enqueue_behind (s := stamp now s) hq (Nat.ne_of_lt hroom)]
    rfl

/-- Settles O44: each refusal is `refuse`, and what the tests of `now` come to is their negation. -/
theorem refusedOperationsOnlyMark : Obligations.RefusedOperationsOnlyMark := by
  refine ⟨fun now s => ⟨nowOk_eq_false_iff, tickGapOk_eq_false_iff⟩, fun s => rfl, ?_, ?_, ?_⟩
  · intro cmd reg payload tag now i s hi h
    rw [exec_asks hi, request_refused h]; rfl
  · intro b now i s hi h
    rw [exec_presents hi, rxByte, timed_bad h]; rfl
  · intro now s h
    exact congrArg Host.Outcome.next (tick_refused h)

/-- Settles O45, by the length of the ring. -/
theorem resolvingHeadAdvancesQueue : Obligations.ResolvingHeadAdvancesQueue := by
  intro st reply now r s
  refine ⟨fun r' more hq => resolveHead_next hq st reply now, fun hq hsweep => ?_, fun hq hsweep => ?_⟩
  · exact (resolveHead_last hq st reply now).trans (if_neg (by simp [hsweep]))
  · exact (resolveHead_last hq st reply now).trans (if_pos hsweep)

/-- Settles O46: a drained ring transmits what enters it. -/
theorem sweepIssuesNextGet : Obligations.SweepIssuesNextGet := by
  refine fun now s hq hcap => ⟨fun k hk => ?_, fun hlast => sweepNext_end (List.getElem?_eq_none hlast) now⟩
  have henq := enqueue_empty (s := { s with sweepCursor := s.sweepCursor + 1 }) hq (Nat.ne_of_gt hcap) (getSlot k) now
  rw [sweepNext_key hk, henq, getSlot_eq]

/-- Settles O47: the keepalive is enqueued as any request is. -/
theorem firstFrameConnects : Obligations.FirstFrameConnects := by
  refine fun now s => ⟨fun hc => maybeConnect_connected hc now, fun hc hx => maybeConnect_quiet hc hx now, ?_⟩
  intro hc hhex hindex
  rw [maybeConnect_sweep hc (by rw [hhex, hindex]; rfl)]
  split_ifs with hfull hq
  · exact congrArg Prod.fst (enqueue_full (s := connecting s) hfull pingSlot now)
  · exact congrArg Prod.fst (enqueue_empty (s := connecting s) hq (fun h => hfull ((congrArg List.length hq).trans h.symm))
      pingSlot now)
  · exact congrArg Prod.fst (enqueue_behind (s := connecting s) hq hfull pingSlot now)

end Sys2Proof.Claims
end

section
/-! PROOF. O22, O24 to O27, O29 to O33, O35: one byte in one state (41_frame_decoder.md). -/

namespace Sys2Proof.Machine

open Sys2Proof.Claims

/-! ## What `fd_step` makes of a byte of the TEXT states -/

theorem fdStep_idle_lf {s : State} (h : s.fs = .idle) (ht : s.cfg.textEnabled = true) :
    fdStep chLf s = (startText s, .none) := by
  simp [fdStep, h, fdIdle, ht]

theorem fdStep_idle_ignored {s : State} {b : Byte} (h : s.fs = .idle) (hcolon : b ≠ chColon)
    (hlf : b = chLf → s.cfg.textEnabled = false) : fdStep b s = (s, .none) := by
  by_cases hb : b = chLf
  · simp [fdStep, h, fdIdle, hb, hlf hb]
  · simp [fdStep, h, fdIdle, hcolon, hb]

theorem fdStep_name_tab {s : State} (h : s.fs = .textName) : fdStep chTab s = (endName s, .none) := by
  simp [fdStep, h, fdName]

theorem fdStep_name_byte {s : State} {b : Byte} (h : s.fs = .textName) (hcolon : b ≠ chColon) (htab : b ≠ chTab) :
    fdStep b s = (nameByte b s, .none) := by
  simp [fdStep, h, fdName, hcolon, htab]

theorem fdStep_value_lf {s : State} (h : s.fs = .textValue) : fdStep chLf s = (endRecord s, .none) := by
  simp [fdStep, h, fdValue]

theorem fdStep_value_byte {s : State} {b : Byte} (h : s.fs = .textValue) (hcolon : b ≠ chColon) (hcr : b ≠ chCr)
    (hlf : b ≠ chLf) : fdStep b s = (valueByte b s, .none) := by
  simp [fdStep, h, fdValue, hcolon, hcr, hlf]

theorem fdStep_checksum_byte {s : State} {b : Byte} (h : s.fs = .textChecksum) (hcolon : b ≠ chColon) :
    fdStep b s = checksumByte b s := by
  simp [fdStep, h, fdChecksum, hcolon]

/-! ## What `fd_step` makes of a byte in `HEX` -/

/-- While DecodeStep continues only the codec changes (R194). -/
theorem fdStep_hex_continue {s : State} {b : Byte} {k : Codec} (h : s.fs = .hex)
    (hk : decodeStep s.cfg.hexRawCap s.cfg.hexLowerOk b s.rxc = (k, .continue)) :
    fdStep b s = ({ s with rxc := k }, .none) := by
  rw [fdStep_hex h, fdHex, hk]; rfl

/-- LF on an aligned codec whose sum is 0 (R195). -/
theorem fdStep_hex_valid {s : State} (h : s.fs = .hex) (hp : s.rxc.phase = .aligned) (hs : s.rxc.sum = 0) :
    fdStep chLf s = (resumeBackup (emit s (.hexFrame s.rxc.raw.dropLast)), .hexFrame s.rxc.raw.dropLast) := by
  have hend : codecEnd s.rxc = .valid s.rxc.raw.dropLast := by
    rw [codecEnd, hp, if_neg (by decide), if_neg (not_not.2 hs)]
  rw [fdStep_hex h, fdHex, decodeStep_lf, hend]
  rfl

/-- A character that is no digit, NUL among them, and LF between two digits (R197). -/
theorem fdStep_hex_coding {s : State} {b : Byte} (h : s.fs = .hex)
    (hb : b ≠ 0x0A ∧ hexval s.cfg.hexLowerOk b = none ∨ b = 0x0A ∧ s.rxc.phase = .half) :
    fdStep b s = (decoderReset (emit s (.decodeError .coding .hex)), .none) := by
  rw [fdStep_hex h, fdHex]
  obtain ⟨hlf, hv⟩ | ⟨rfl, hp⟩ := hb
  · rw [decodeStepOnNonDigit _ _ _ _ hlf hv]
    split <;> rfl
  · rw [decodeStepOnLf, if_pos hp]; rfl

end Sys2Proof.Machine

namespace Sys2Proof.Claims

open Sys2Proof.Machine

/-- Settles O22, by `exec_presents`. -/
theorem classMapAgreesWithPrecedence : Obligations.ClassMapAgreesWithPrecedence :=
  fun _ _ _ s hi => exec_presents hi s

/-- Settles O24: LF in `IDLE` is `startText`. -/
theorem lfStartsTextFrame : Obligations.LfStartsTextFrame := fun _ now s hi hok hfs htext =>
  exec_presents_none hi hok (fdStep_idle_lf (s := heard now s) hfs htext)

/-- Settles O25: no test of `IDLE` meets the byte. -/
theorem idleIgnoresOtherBytes : Obligations.IdleIgnoresOtherBytes := fun _ _ now s hi hok hfs hcolon hlf =>
  exec_presents_none hi hok (fdStep_idle_ignored (s := heard now s) hfs hcolon hlf)

/-- Settles O26: TAB in `TEXT_NAME` is `endName`, which compares the name with `checksumName`. -/
theorem tabEndsName : Obligations.TabEndsName := fun _ now s hi hok hfs =>
  exec_presents_none hi hok (fdStep_name_tab (s := heard now s) hfs)

/-- Settles O27: the byte is `nameByte`, the bound first. -/
theorem nameByteStoredOrOverflows : Obligations.NameByteStoredOrOverflows := fun _ _ now s hi hok hfs hcolon htab =>
  exec_presents_none hi hok (fdStep_name_byte (s := heard now s) hfs hcolon htab)

/-- Settles O29: LF in `TEXT_VALUE` is `endRecord`. -/
theorem lfEndsRecord : Obligations.LfEndsRecord := fun _ now s hi hok hfs =>
  exec_presents_none hi hok (fdStep_value_lf (s := heard now s) hfs)

/-- Settles O30: the byte is `valueByte`, the bound first. -/
theorem valueByteStoredOrOverflows : Obligations.ValueByteStoredOrOverflows :=
  fun _ _ now s hi hok hfs hcolon hcr hlf =>
    exec_presents_none hi hok (fdStep_value_byte (s := heard now s) hfs hcolon hcr hlf)

/-- Settles O31, by the sum the checksum byte completes: a delivered frame then connects (R180). -/
theorem checksumByteEndsTextFrame : Obligations.ChecksumByteEndsTextFrame := by
  intro b i now s hi hok hfs hcolon
  have hbyte := fdStep_checksum_byte (s := heard now s) hfs hcolon
  constructor
  · intro hsum
    rw [exec_presents hi, rxByte_textFrame hok (hbyte.trans (checksumByte_zero hsum))]
    rfl
  · intro hsum
    exact exec_presents_none hi hok (hbyte.trans (checksumByte_nonzero hsum))

/-- Settles O32: the codec latches the digit or stores the byte, and DecodeStep continues. -/
theorem hexDigitContinues : Obligations.HexDigitContinues := by
  intro b v i now s hi hok hfs hv
  have hstep := decodeStep_digit hv s.cfg.hexRawCap s.rxc
  constructor
  · intro hp
    exact exec_presents_none hi hok
      (fdStep_hex_continue (s := heard now s) hfs (hstep.trans (codecNibble_aligned hp _ v)))
  · intro hp hroom
    exact exec_presents_none hi hok
      (fdStep_hex_continue (s := heard now s) hfs (hstep.trans (codecNibble_store hp hroom v)))

/-- Settles O33: `fd_step` answers the frame, which is matched and then connects (R180). -/
theorem validHexFrameDelivered : Obligations.ValidHexFrameDelivered := fun _ now s hi hok hfs hp hs =>
  (exec_presents hi s).trans
    (congrArg _ (rxByte_hexFrame hok (fdStep_hex_valid (s := heard now s) hfs hp hs)))

/-- Settles O35: the coding error's recovery is `decoder_reset`. -/
theorem hexCodingErrorResets : Obligations.HexCodingErrorResets := fun _ _ now s hi hok hfs hb =>
  exec_presents_none hi hok (fdStep_hex_coding (s := heard now s) hfs hb)

end Sys2Proof.Claims
end

section
/-! PROOF. O39 to O41: what one byte may add to the trace and to the ring (R202, R256, R257, R308). -/

namespace Sys2Proof.Machine

open Sys2Proof.Claims

/-! ## Ring operations raise no decode error -/

/-- Events were appended, no decode error among them. -/
def NoErrorAdded (s t : State) : Prop := ∃ es, t.ev = s.ev ++ es ∧ ∀ e ∈ es, Event.isDecodeError e = false

theorem NoErrorAdded.of_same {s t : State} (h : t.ev = s.ev) : NoErrorAdded s t :=
  ⟨[], h.trans (List.append_nil _).symm, nofun⟩

theorem NoErrorAdded.trans {s t u : State} (h : NoErrorAdded s t) (h' : NoErrorAdded t u) : NoErrorAdded s u := by
  obtain ⟨es, hev, hes⟩ := h
  obtain ⟨es', hev', hes'⟩ := h'
  exact ⟨es ++ es', by rw [hev', hev, List.append_assoc], fun e he => (List.mem_append.1 he).elim (hes e) (hes' e)⟩

theorem enqueue_noError (r : Slot) (now : Time) (s : State) : NoErrorAdded s (enqueue r now s).1 := by
  by_cases hfull : s.q.length = s.cfg.queueCap
  · rw [enqueue_full hfull]
    exact ⟨[.resolved r.tag .queueFull none], rfl, by simp [Event.isDecodeError]⟩
  · by_cases hq : s.q = []
    · rw [enqueue_empty hq (fun h => hfull ((congrArg List.length hq).trans h.symm))]
      exact ⟨[.tx (encodeFrame r.raw)], rfl, by simp [Event.isDecodeError]⟩
    · rw [enqueue_behind hq hfull]
      exact .of_same rfl

theorem sweepNext_noError (now : Time) (s : State) : NoErrorAdded s (sweepNext now s) := by
  cases hk : s.cfg.pollKeys[s.sweepCursor]? with
  | none => rw [sweepNext_end hk]; exact .of_same rfl
  | some k => rw [sweepNext_key hk]; exact enqueue_noError (getSlot k) now { s with sweepCursor := s.sweepCursor + 1 }

theorem resolveHead_noError (st : Status) (reply : Option (List Byte)) (now : Time) (s : State) :
    NoErrorAdded s (resolveHead st reply now s) := by
  match hq : s.q with
  | [] => rw [resolveHead_nil hq]; exact .of_same rfl
  | [r] =>
    have hpop : NoErrorAdded s (popHead [] (emit s (.resolved r.tag st reply))) :=
      ⟨[.resolved r.tag st reply], rfl, by simp [Event.isDecodeError]⟩
    rw [resolveHead_last hq]
    dsimp only
    split
    · exact hpop.trans (sweepNext_noError now _)
    · exact hpop
  | r :: r' :: more =>
    rw [resolveHead_next hq]
    exact ⟨[.resolved r.tag st reply, .tx (encodeFrame r'.raw)], rfl, by simp [Event.isDecodeError]⟩

theorem onHexReply_noError (raw : List Byte) (now : Time) (s : State) : NoErrorAdded s (onHexReply raw now s) := by
  obtain h | ⟨st, -, h, -⟩ := onHexReply_cases raw now s <;> rw [h]
  · exact .of_same rfl
  · exact resolveHead_noError st _ now s

theorem maybeConnect_noError (now : Time) (s : State) : NoErrorAdded s (maybeConnect now s) := by
  by_cases hc : s.connected = true
  · rw [maybeConnect_connected hc]; exact .of_same rfl
  · rw [Bool.not_eq_true] at hc
    cases hx : (s.cfg.hexEnabled && s.cfg.indexNonempty) with
    | false => rw [maybeConnect_quiet hc hx]; exact .of_same rfl
    | true => rw [maybeConnect_sweep hc hx]; exact enqueue_noError pingSlot now (connecting s)

/-- A frame's event and what the ring operations add after it hold no decode error. -/
theorem NoErrorAdded.after_frame {s u t : State} {e : Event} (hu : u.ev = s.ev ++ [e]) (he : Event.isDecodeError e = false)
    (h : NoErrorAdded u t) : ∃ es, t.ev = s.ev ++ e :: es ∧ ∀ e' ∈ e :: es, Event.isDecodeError e' = false := by
  obtain ⟨es, hev, hes⟩ := h
  exact ⟨es, by rw [hev, hu, List.append_assoc, List.singleton_append], List.forall_mem_cons.2 ⟨he, hes⟩⟩

/-! ## One accepted byte -/

/-- What an accepted byte comes to, by what `fd_step` answered: a frame, delivered and then matched or connecting, or nothing but
at most one decode error. -/
theorem rxByte_cases {b : Byte} {now : Time} {s : State} (hok : s.nowOk now = true) :
    ∃ u result, fdStep b (heard now s) = (u, result) ∧ DecoderOnly (heard now s) u ∧
      ((∃ raw, result = .hexFrame raw ∧ s.fs = .hex ∧ u.ev = s.ev ++ [.hexFrame raw] ∧
          rxByte b now s = maybeConnect now (onHexReply raw now u)) ∨
        (∃ recs, result = .textFrame recs ∧ s.fs = .textChecksum ∧ u.ev = s.ev ++ [.textFrame recs] ∧
          rxByte b now s = maybeConnect now u) ∨
        (result = .none ∧ rxByte b now s = u ∧ (u.ev = s.ev ∨ ∃ code path, u.ev = s.ev ++ [.decodeError code path]))) := by
  obtain ⟨hd, hev⟩ := fdStep_frame b (heard now s)
  refine ⟨_, _, rfl, hd, ?_⟩
  obtain ⟨raw, hr, hfs, hev⟩ | ⟨recs, hr, hfs, hev⟩ | ⟨hr, hev⟩ := hev
  · exact .inl ⟨raw, hr, hfs, hev, rxByte_hexFrame hok (Prod.ext rfl hr)⟩
  · exact .inr (.inl ⟨recs, hr, hfs, hev, rxByte_textFrame hok (Prod.ext rfl hr)⟩)
  · exact .inr (.inr ⟨hr, rxByte_none hok (Prod.ext rfl hr), hev⟩)

theorem rxByte_refused {b : Byte} {now : Time} {s : State} (h : s.nowOk now = false) : rxByte b now s = refuse s :=
  timed_bad h _

theorem DecoderOnly.sameQueue {now : Time} {s u : State} (h : DecoderOnly (heard now s) u) : SameQueue s u :=
  ⟨h.q, h.qHead, h.qTxTime, h.connected, h.sweepActive, h.sweepCursor⟩

/-! ## Which recovery a decode error takes -/

theorem raise_of_ev {s u : State} {e : Event} {code : ErrorCode} {path : Path} (hu : u.ev = s.ev ++ [e])
    (h : u.ev = s.ev ++ [.decodeError code path]) : e = .decodeError code path :=
  List.singleton_injective (List.append_cancel_left (hu.symm.trans h))

/-- The recovery of each decode error (R312): `text_abort` outside `HEX`, and in `HEX` the resume for `CHECKSUM` alone. -/
inductive Recovers (s : State) (code : ErrorCode) (path : Path) : State → Prop where
  | text : s.fs ≠ .hex → path = .text → Recovers s code path (textAbort (emit s (.decodeError code path)))
  | resume : s.fs = .hex → code = .checksum → path = .hex →
      Recovers s code path (resumeBackup (emit s (.decodeError code path)))
  | reset : s.fs = .hex → code ≠ .checksum → Recovers s code path (decoderReset (emit s (.decodeError code path)))

theorem ne_append_singleton (es : List Event) (e : Event) : es ≠ es ++ [e] := by simp

theorem recovers_raise_text {s : State} (hfs : s.fs ≠ .hex) (err : ErrorCode) {code : ErrorCode} {path : Path}
    (hev : (textAbort (emit s (.decodeError err .text))).ev = s.ev ++ [.decodeError code path]) :
    Recovers s code path (textAbort (emit s (.decodeError err .text))) := by
  cases raise_of_ev (u := textAbort (emit s (.decodeError err .text))) rfl hev
  exact .text hfs rfl

theorem nameByte_recovers {s : State} (hfs : s.fs ≠ .hex) {b : Byte} {code : ErrorCode} {path : Path}
    (hev : (nameByte b s).ev = s.ev ++ [.decodeError code path]) : Recovers s code path (nameByte b s) := by
  by_cases hfull : s.txtName.length = s.cfg.textNameMax
  · rw [nameByte_full hfull] at hev ⊢; exact recovers_raise_text hfs _ hev
  · rw [nameByte_store hfull] at hev; exact absurd hev (ne_append_singleton _ _)

theorem valueByte_recovers {s : State} (hfs : s.fs ≠ .hex) {b : Byte} {code : ErrorCode} {path : Path}
    (hev : (valueByte b s).ev = s.ev ++ [.decodeError code path]) : Recovers s code path (valueByte b s) := by
  by_cases hfull : s.txtValue.length = s.cfg.textValueMax
  · rw [valueByte_full hfull] at hev ⊢; exact recovers_raise_text hfs _ hev
  · rw [valueByte_store hfull] at hev; exact absurd hev (ne_append_singleton _ _)

theorem endRecord_recovers {s : State} (hfs : s.fs ≠ .hex) {code : ErrorCode} {path : Path}
    (hev : (endRecord s).ev = s.ev ++ [.decodeError code path]) : Recovers s code path (endRecord s) := by
  by_cases hfull : s.txtRec.length = s.cfg.textRecordsMax
  · rw [endRecord_full hfull] at hev ⊢; exact recovers_raise_text hfs _ hev
  · rw [endRecord_store hfull] at hev; exact absurd hev (ne_append_singleton _ _)

theorem checksumByte_recovers {s : State} (hfs : s.fs ≠ .hex) {b : Byte} {code : ErrorCode} {path : Path}
    (hev : (checksumByte b s).1.ev = s.ev ++ [.decodeError code path]) : Recovers s code path (checksumByte b s).1 := by
  by_cases hsum : s.txtSum + b = 0
  · rw [checksumByte_zero hsum] at hev
    exact Event.noConfusion (raise_of_ev (u := textAbort (emit s (.textFrame s.txtRec))) rfl hev)
  · rw [checksumByte_nonzero hsum] at hev ⊢; exact recovers_raise_text hfs _ hev

theorem hexOutcome_recovers {s : State} (hfs : s.fs = .hex) (r : Codec × DecodeResult) {code : ErrorCode} {path : Path}
    (hev : (hexOutcome r s).1.ev = s.ev ++ [.decodeError code path]) : Recovers s code path (hexOutcome r s).1 := by
  obtain ⟨k, d⟩ := r
  have heq : ∀ e : Event, (hexOutcome (k, d) s).1.ev = s.ev ++ [e] → e = .decodeError code path :=
    fun e he => raise_of_ev he hev
  cases d with
  | valid raw => exact Event.noConfusion (heq _ rfl)
  | checksumError => cases heq _ rfl; exact .resume hfs rfl rfl
  | codingError | terminated _ | overflow => cases heq _ rfl; exact .reset hfs (by decide)
  | _ => exact absurd hev (ne_append_singleton _ _)

theorem fdStep_recovers {s : State} {b : Byte} {code : ErrorCode} {path : Path}
    (hev : (fdStep b s).1.ev = s.ev ++ [.decodeError code path]) : Recovers s code path (fdStep b s).1 := by
  have hquiet : ∀ {t : State} {p : Prop}, t.ev = s.ev ++ [.decodeError code path] → t.ev = s.ev → p :=
    fun h h' => absurd (h'.symm.trans h) (ne_append_singleton _ _)
  cases hfs : s.fs <;> simp only [fdStep, hfs] at hev ⊢
  case idle =>
    refine hquiet hev ?_
    rw [fdIdle]; split_ifs <;> rfl
  case hex => exact hexOutcome_recovers hfs _ hev
  case textName =>
    rw [fdName] at hev ⊢
    split_ifs at hev ⊢
    · exact hquiet hev rfl
    · exact hquiet hev (by rw [endName]; split_ifs <;> rfl)
    · exact nameByte_recovers (by rw [hfs]; decide) hev
  case textValue =>
    rw [fdValue] at hev ⊢
    split_ifs at hev ⊢
    · exact hquiet hev rfl
    · exact hquiet hev rfl
    · exact endRecord_recovers (by rw [hfs]; decide) hev
    · exact valueByte_recovers (by rw [hfs]; decide) hev
  case textChecksum =>
    rw [fdChecksum] at hev ⊢
    split_ifs at hev ⊢
    · exact hquiet hev rfl
    · exact checksumByte_recovers (by rw [hfs]; decide) hev

end Sys2Proof.Machine

namespace Sys2Proof.Claims

open Sys2Proof.Machine

theorem length_filter_isDecodeError {es : List Event} (h : ∀ e ∈ es, Event.isDecodeError e = false) :
    (es.filter Event.isDecodeError).length = 0 := by
  rw [List.length_eq_zero_iff, List.filter_eq_nil_iff]
  exact fun e he => by rw [h e he]; exact Bool.false_ne_true

/-- Settles O39: a frame ends without an error, and a byte that ends no frame has one event at most. -/
theorem decodeErrorStandsAlone : Obligations.DecodeErrorStandsAlone := by
  intro b i now s t hi h
  rw [exec_presents hi] at h
  cases h
  cases hok : s.nowOk now with
  | false => exact ⟨[], by rw [rxByte_refused hok]; simp, .inl rfl⟩
  | true =>
    obtain ⟨u, result, -, hd, ⟨raw, -, -, hev, ht⟩ | ⟨recs, -, -, hev, ht⟩ | ⟨-, ht, hev⟩⟩ := rxByte_cases (b := b) hok
    · obtain ⟨es, hes, hno⟩ := NoErrorAdded.after_frame hev rfl
        ((onHexReply_noError raw now u).trans (maybeConnect_noError now _))
      exact ⟨_, by rw [ht, hes], .inl (length_filter_isDecodeError hno)⟩
    · obtain ⟨es, hes, hno⟩ := NoErrorAdded.after_frame hev rfl (maybeConnect_noError now u)
      exact ⟨_, by rw [ht, hes], .inl (length_filter_isDecodeError hno)⟩
    · rw [ht]
      obtain hev | ⟨code, path, hev⟩ := hev
      · exact ⟨[], by rw [hev, List.append_nil], .inl rfl⟩
      · exact ⟨_, hev, .inr ⟨rfl, hd.sameQueue⟩⟩

/-- Settles O41: outside `HEX` the decoder answers no HEX frame, and connecting takes nothing out of the ring. -/
theorem textBytesNeverResolve : Obligations.TextBytesNeverResolve := by
  intro b i now s t hi h hfs
  rw [exec_presents hi] at h
  cases h
  have hgrown : GrownByBlock s (rxByte b now s) ∧ (s.connected = true → SameQueue s (rxByte b now s)) := by
    cases hok : s.nowOk now with
    | false => rw [rxByte_refused hok]; exact ⟨refuse_grown s, fun _ => ⟨rfl, rfl, rfl, rfl, rfl, rfl⟩⟩
    | true =>
      obtain ⟨u, result, -, hd, ⟨raw, -, hhex, -⟩ | ⟨recs, -, -, hev, ht⟩ | ⟨-, ht, hev⟩⟩ := rxByte_cases (b := b) hok
      · exact absurd hhex hfs
      · rw [ht]
        refine ⟨GrownByBlock.trans (.of_quiet hev hd.q rfl hd.qHead) (maybeConnect_grown now u), fun hc => ?_⟩
        rw [maybeConnect_connected (hd.connected.trans hc)]
        exact hd.sameQueue
      · rw [ht]
        refine ⟨?_, fun _ => hd.sameQueue⟩
        obtain hev | ⟨code, path, hev⟩ := hev
        · exact .of_same hev hd.q hd.qHead
        · exact .of_quiet hev hd.q rfl hd.qHead
  obtain ⟨⟨es, added, hmoved, -, hhead⟩, hsame⟩ := hgrown
  exact ⟨⟨es, added, hmoved.ev, hmoved.resolved, hmoved.ring.symm, hhead⟩, hsame⟩

/-- Settles O40, by the recovery of the error: in a state that meets the invariants `text_abort` leaves the codec and the
backup as at reset, and so does the resume of an idle backup with the TEXT part. -/
theorem decodeErrorResetsDecoder : Obligations.DecodeErrorResetsDecoder := by
  intro b i now s t code path hinv hi h hev
  rw [exec_presents hi] at h
  cases h
  have hrec : ∃ u, Recovers (heard now s) code path u ∧ rxByte b now s = u := by
    cases hok : s.nowOk now with
    | false => rw [rxByte_refused hok] at hev; exact absurd hev (ne_append_singleton _ _)
    | true =>
      obtain ⟨u, result, hfd, -, ⟨raw, -, -, hev', ht⟩ | ⟨recs, -, -, hev', ht⟩ | ⟨-, ht, -⟩⟩ := rxByte_cases (b := b) hok
      · obtain ⟨es, hes, -⟩ := NoErrorAdded.after_frame hev' rfl
          ((onHexReply_noError raw now u).trans (maybeConnect_noError now _))
        rw [ht, hes] at hev
        cases List.append_cancel_left hev
      · obtain ⟨es, hes, -⟩ := NoErrorAdded.after_frame hev' rfl (maybeConnect_noError now u)
        rw [ht, hes] at hev
        cases List.append_cancel_left hev
      · obtain rfl : (fdStep b (heard now s)).1 = u := congrArg Prod.fst hfd
        exact ⟨_, fdStep_recovers (s := heard now s) (by rw [← ht]; exact hev), ht⟩
  obtain ⟨u, hu, ht⟩ := hrec
  rw [ht]
  cases hu with
  | text hfs hpath =>
    exact ⟨fun _ => ⟨rfl, hinv.backupIdle hfs, hinv.codecEmpty hfs, rfl, rfl, rfl, rfl⟩,
      fun _ hhex => absurd (hpath.symm.trans hhex) (by decide)⟩
  | resume hfs hcode hpath =>
    refine ⟨fun hother => ?_, fun _ _ => ⟨rfl, rfl, rfl, rfl, rfl, rfl, rfl⟩⟩
    have hidle : s.fsBackup = .idle := not_not.1 fun hb => hother ⟨hcode, hpath, hb⟩
    have hhex : s.fs = .hex := hfs
    obtain ⟨hname, hvalue, hrecs, hsum⟩ := hinv.idleEmpty (by rw [State.textState, hhex]; exact hidle)
    exact ⟨congrArg BackupState.toFrame hidle, rfl, rfl, hname, hvalue, hrecs, hsum⟩
  | reset hfs hcode => exact ⟨fun _ => ⟨rfl, rfl, rfl, rfl, rfl, rfl, rfl⟩, fun h => absurd h hcode⟩

end Sys2Proof.Claims
end

section
/-! PROOF. O37, O48 to O54: a whole HEX frame fed at one `now` (R123, R151).  After the first byte the block has heard
everything there is to hear at `now`, so each further byte is one `fd_step`. -/

namespace Sys2Proof.Machine

open Sys2Proof.Claims

/-! ## Further bytes at one `now` -/

/-- A byte was heard at `now` and `now` is still admitted: hearing another one changes nothing. -/
structure Settled (now : Time) (s : State) : Prop where
  ok : s.nowOk now = true
  lastNow : s.lastNow = some now
  lastRx : s.lastRx = now
  ret : s.ret = none

theorem Settled.heard_eq {now : Time} {s : State} (h : Settled now s) : heard now s = s := by
  obtain ⟨-, hnow, hrx, hret⟩ := h
  rw [heard, stamp_of_lastNow hnow, ← hrx, ← hret]

theorem settled_heard {now : Time} {s : State} (h : s.nowOk now = true) : Settled now (heard now s) :=
  ⟨nowOk_keep h rfl rfl rfl rfl, rfl, rfl, rfl⟩

/-- What the decoder does keeps `now` heard. -/
theorem Settled.of_decoderOnly {now : Time} {s t : State} (h : Settled now s) (hd : DecoderOnly s t) : Settled now t where
  ok := nowOk_keep h.ok (hd.lastNow.trans h.lastNow) (hd.lastRx.trans h.lastRx) hd.q hd.qTxTime
  lastNow := hd.lastNow.trans h.lastNow
  lastRx := hd.lastRx.trans h.lastRx
  ret := hd.ret.trans h.ret

theorem Settled.rxByte_none {now : Time} {s t : State} (h : Settled now s) {b : Byte} (hfd : fdStep b s = (t, .none)) :
    rxByte b now s = t :=
  Machine.rxByte_none h.ok ((congrArg (fdStep b) h.heard_eq).trans hfd)

theorem Settled.rxByte_hexFrame {now : Time} {s t : State} {raw : List Byte} (h : Settled now s) {b : Byte}
    (hfd : fdStep b s = (t, .hexFrame raw)) : rxByte b now s = maybeConnect now (onHexReply raw now t) :=
  Machine.rxByte_hexFrame h.ok ((congrArg (fdStep b) h.heard_eq).trans hfd)

theorem Settled.rxByte_textFrame {now : Time} {s t : State} {recs : List TextRecord} (h : Settled now s) {b : Byte}
    (hfd : fdStep b s = (t, .textFrame recs)) : rxByte b now s = maybeConnect now t :=
  Machine.rxByte_textFrame h.ok ((congrArg (fdStep b) h.heard_eq).trans hfd)

/-- Writing the frame state the block is in changes nothing. -/
theorem with_fs_eq {s : State} {f : FrameState} (h : s.fs = f) : { s with fs := f } = s := by
  subst h; rfl

/-! ## The digits of a frame -/

/-- In `HEX` a string of digits within the buffer updates the codec and nothing else (R194). -/
theorem feed_digits {now : Time} {s : State} (h : Settled now s) (hfs : s.fs = .hex) (hcodec : s.rxc = Codec.init)
    {ds : List Byte} {vs : List Nibble} (hd : AreDigits s.cfg.hexLowerOk ds vs) (hc : ds.length / 2 ≤ s.cfg.hexRawCap)
    (after : List Byte) :
    feed now (ds ++ after) s = feed now after { s with rxc := Codec.init.afterDigits vs } := by
  have hpass : ∀ (c : Byte) (cs : List Byte) (k k' : Codec),
      decodeStep s.cfg.hexRawCap s.cfg.hexLowerOk c k = (k', .continue) →
      feed now (c :: cs) { s with rxc := k } = feed now cs { s with rxc := k' } := fun c cs k k' hk => by
    have hk' : Settled now { s with rxc := k } :=
      h.of_decoderOnly ⟨rfl, rfl, rfl, rfl, rfl, rfl, rfl, rfl, rfl, rfl, rfl, rfl, rfl⟩
    rw [feed_cons, hk'.rxByte_none (fdStep_hex_continue (s := { s with rxc := k }) hfs hk)]
  have hpassed := pass_digits (pass := fun bs k => feed now bs { s with rxc := k }) hpass vs hd (k := Codec.init) rfl
    (by simpa [Codec.init] using hc) after
  rw [← hpassed, ← hcodec]

theorem heard_hex_settled {now : Time} {s : State} (h : s.nowOk now = true) (from' : BackupState) :
    Settled now (enterHex from' (heard now s)) :=
  (settled_heard h).of_decoderOnly ⟨rfl, rfl, rfl, rfl, rfl, rfl, rfl, rfl, rfl, rfl, rfl, rfl, rfl⟩

/-- `':'` and digits within the buffer, fed outside `HEX`. -/
theorem feed_colon_digits {now : Time} {s : State} (hok : s.nowOk now = true) {from' : BackupState}
    (hfs : s.fs = from'.toFrame) {ds : List Byte} {vs : List Nibble} (hd : AreDigits s.cfg.hexLowerOk ds vs)
    (hc : ds.length / 2 ≤ s.cfg.hexRawCap) (after : List Byte) :
    feed now (chColon :: (ds ++ after)) s =
      feed now after { enterHex from' (heard now s) with rxc := Codec.init.afterDigits vs } := by
  rw [feed_cons, rxByte_none hok (fdStep_colon (s := heard now s) hfs)]
  exact feed_digits (heard_hex_settled hok from') rfl rfl hd hc after

theorem afterDigits_settled {now : Time} {s : State} (hok : s.nowOk now = true) (from' : BackupState) (vs : List Nibble) :
    Settled now { enterHex from' (heard now s) with rxc := Codec.init.afterDigits vs } :=
  (heard_hex_settled hok from').of_decoderOnly ⟨rfl, rfl, rfl, rfl, rfl, rfl, rfl, rfl, rfl, rfl, rfl, rfl, rfl⟩

section
variable {now : Time} {s : State} {ds : List Byte} {vs : List Nibble}

/-- A frame whose bytes sum to 0x55, fed outside `HEX`: received, matched, connecting (R195, R180). -/
theorem feed_frame_valid (hok : s.nowOk now = true) (hfs : s.fs ≠ .hex) (hd : AreDigits s.cfg.hexLowerOk ds vs)
    (heven : ds.length % 2 = 0) (hc : ds.length / 2 ≤ s.cfg.hexRawCap) (hsum : (spell vs).sum = 0x55) :
    feed now (chColon :: (ds ++ [chLf])) s =
      maybeConnect now (onHexReply (spell vs).dropLast now (framed now (spell vs).dropLast s)) := by
  obtain ⟨from', hb⟩ := exists_backup hfs
  have heven' : ¬ vs.length % 2 = 1 := by rw [areDigits_length hd]; omega
  have hphase : (Codec.init.afterDigits vs).phase = .aligned := by rw [afterDigits_init_phase, if_neg heven']
  have hzero : (Codec.init.afterDigits vs).sum = 0 := by
    rw [afterDigits_init_sum, checksumIsSeededDifference, hsum, sub_self]
  have hfd := fdStep_hex_valid (s := { enterHex from' (heard now s) with rxc := Codec.init.afterDigits vs }) rfl hphase hzero
  rw [feed_colon_digits hok hb.symm hd hc, feed_cons, feed_nil, (afterDigits_settled hok from' vs).rxByte_hexFrame hfd,
    afterDigits_init_raw]
  exact congrArg (fun u => maybeConnect now (onHexReply _ now u)) (with_fs_eq (s := framed now _ s) hb.symm)

/-- A frame of any other sum: the error, and the frame state as before (R196). -/
theorem feed_frame_checksumError (hok : s.nowOk now = true) (hfs : s.fs ≠ .hex) (hd : AreDigits s.cfg.hexLowerOk ds vs)
    (heven : ds.length % 2 = 0) (hc : ds.length / 2 ≤ s.cfg.hexRawCap) (hsum : (spell vs).sum ≠ 0x55) :
    feed now (chColon :: (ds ++ [chLf])) s =
      { heard now s with fsBackup := .idle, rxc := Codec.init, ev := s.ev ++ [.decodeError .checksum .hex] } := by
  obtain ⟨from', hb⟩ := exists_backup hfs
  have heven' : ¬ vs.length % 2 = 1 := by rw [areDigits_length hd]; omega
  have hphase : (Codec.init.afterDigits vs).phase = .aligned := by rw [afterDigits_init_phase, if_neg heven']
  have hzero : (Codec.init.afterDigits vs).sum ≠ 0 := by
    rw [afterDigits_init_sum, checksumIsSeededDifference, Ne, sub_eq_zero]
    exact fun h => hsum h.symm
  have hfd := fdStep_checksumError (s := { enterHex from' (heard now s) with rxc := Codec.init.afterDigits vs }) rfl hphase
    hzero
  rw [feed_colon_digits hok hb.symm hd hc, feed_cons, feed_nil, (afterDigits_settled hok from' vs).rxByte_none hfd]
  exact with_fs_eq (s := { heard now s with
    fsBackup := .idle, rxc := Codec.init, ev := s.ev ++ [.decodeError .checksum .hex] }) hb.symm

end

/-! ## `FEED_HEX` -/

/-- Outside `HEX` and within the buffer the frame is received whole (R151). -/
theorem feedHex_received {now : Time} {s : State} {raw : List Byte} (hok : s.nowOk now = true) (hfs : s.fs ≠ .hex)
    (hc : raw.length + 1 ≤ s.cfg.hexRawCap) :
    feedHex raw now s = maybeConnect now (onHexReply raw now (framed now raw s)) := by
  have hd := areDigits_flatMap_digits s.cfg.hexLowerOk (raw ++ [checksum raw])
  have hlen := length_frameDigits raw
  have h := feed_frame_valid hok hfs hd (by omega) (by omega) (by rw [spell_nibbles, sum_append_checksum])
  rwa [spell_nibbles, List.dropLast_concat, ← encodeFrame_eq_flatMap] at h

theorem feed_refused {now : Time} {s : State} (hok : s.nowOk now = false) (b : Byte) (bs : List Byte) :
    feed now (b :: bs) s = refuse s := by
  rw [feed_cons, rxByte_refused hok]
  induction bs with
  | nil => rfl
  | cons c cs ih => rw [feed_cons, rxByte_refused (s := refuse s) hok]; exact ih

/-- In `IDLE` bytes other than `':'` and LF are ignored (R185). -/
theorem feed_idle_ignored {now : Time} {s : State} (h : Settled now s) (hfs : s.fs = .idle) {bs : List Byte}
    (hbs : ∀ b ∈ bs, b ≠ chColon ∧ b ≠ chLf) (after : List Byte) : feed now (bs ++ after) s = feed now after s := by
  induction bs with
  | nil => rfl
  | cons b bs ih =>
    obtain ⟨hcolon, hlf⟩ := hbs b List.mem_cons_self
    rw [List.cons_append, feed_cons, h.rxByte_none (fdStep_idle_ignored hfs hcolon (fun hb => absurd hb hlf))]
    exact ih fun c hc => hbs c (List.mem_cons_of_mem b hc)

/-- The rest of a frame after the decoder was reset: its digits are ignored, and its LF starts a TEXT frame where TEXT is
enabled. -/
theorem feed_rest_of_frame {now : Time} {s : State} (h : Settled now s) (hfs : s.fs = .idle) {bs : List Byte}
    (hbs : ∀ b ∈ bs, b ≠ chColon ∧ b ≠ chLf) :
    feed now (bs ++ [chLf]) s = if s.cfg.textEnabled then startText s else s := by
  rw [feed_idle_ignored h hfs hbs, feed_cons, feed_nil]
  split_ifs with ht
  · exact h.rxByte_none (fdStep_idle_lf hfs ht)
  · exact h.rxByte_none (fdStep_idle_ignored hfs (by decide) (fun _ => Bool.not_eq_true _ ▸ ht))

theorem mem_frameDigits_ne {bs : List Byte} {d : Byte} (h : d ∈ bs.flatMap digits) : d ≠ chColon ∧ d ≠ chLf := by
  obtain ⟨b, -, hd⟩ := List.mem_flatMap.1 h
  obtain rfl | rfl : d = hexdig (hiNibble b) ∨ d = hexdig (loNibble b) := by simpa [digits] using hd
  · exact ⟨hexdig_ne_colon _, hexdig_ne_lf _⟩
  · exact ⟨hexdig_ne_colon _, hexdig_ne_lf _⟩

theorem hexAborted_settled {now : Time} {s : State} (h : s.nowOk now = true) (code : ErrorCode) :
    Settled now (hexAborted now code s) :=
  (settled_heard h).of_decoderOnly ⟨rfl, rfl, rfl, rfl, rfl, rfl, rfl, rfl, rfl, rfl, rfl, rfl, rfl⟩

/-- Inside `HEX` the frame's `':'` is a coding error (R197). -/
theorem feedHex_in_hex {now : Time} {s : State} (hok : s.nowOk now = true) (hfs : s.fs = .hex) (raw : List Byte) :
    feedHex raw now s =
      if s.cfg.textEnabled then startText (hexAborted now .coding s) else hexAborted now .coding s := by
  have hfd := fdStep_hex_coding (s := heard now s) (b := chColon) hfs (.inl ⟨by decide, hexval_colon _⟩)
  rw [feedHex, encodeFrame_eq_flatMap, feed_cons, rxByte_none hok hfd]
  exact feed_rest_of_frame (hexAborted_settled hok .coding) rfl fun _ => mem_frameDigits_ne

/-- A frame longer than the buffer overflows (R198). -/
theorem feedHex_overflow {now : Time} {s : State} (hok : s.nowOk now = true) (hfs : s.fs ≠ .hex) {raw : List Byte}
    (hc : s.cfg.hexRawCap < raw.length + 1) :
    feedHex raw now s =
      if s.cfg.textEnabled then startText (hexAborted now .overflow s) else hexAborted now .overflow s := by
  obtain ⟨from', hb⟩ := exists_backup hfs
  have hd := areDigits_flatMap_digits s.cfg.hexLowerOk (raw ++ [checksum raw])
  have hlen := length_frameDigits raw
  obtain ⟨d, rest, hsplit, -, hstep⟩ := exists_overflowing_digit hd (cap := s.cfg.hexRawCap) (by omega)
  have hrest : ∀ b ∈ rest, b ≠ chColon ∧ b ≠ chLf := fun b hbmem => mem_frameDigits_ne (by
    rw [hsplit]; exact List.mem_append_right _ (List.mem_cons_of_mem d hbmem))
  have hfd : ∀ u : State, u.fs = .hex → decodeStep u.cfg.hexRawCap u.cfg.hexLowerOk d u.rxc = (u.rxc, .overflow) →
      fdStep d u = (decoderReset (emit u (.decodeError .overflow .hex)), .none) := fun u hu hk => by
    rw [fdStep_hex hu, fdHex, hk]; rfl
  rw [feedHex, encodeFrame_eq_flatMap, hsplit, List.append_assoc,
    feed_colon_digits hok hb.symm (areDigits_take hd _) (by rw [List.length_take]; omega), List.cons_append, feed_cons,
    (afterDigits_settled hok from' _).rxByte_none (hfd _ rfl hstep)]
  exact feed_rest_of_frame (hexAborted_settled hok .overflow) rfl hrest

/-! ## Matching the frame -/

/-- Reply matching and connection leave the decoder alone. -/
theorem matched_sameDecoder (raw : List Byte) (now : Time) (s : State) :
    SameDecoder s (maybeConnect now (onHexReply raw now s)) := by
  rw [maybeConnect_frame, onHexReply_frame]
  exact ⟨rfl, rfl, rfl, rfl, rfl, rfl, rfl⟩

theorem regOf_eq_append (lo hi : Byte) : regOf lo hi = hi ++ lo := by
  apply BitVec.eq_of_getLsbD_eq
  intro i hi'
  rw [regOf, BitVec.getLsbD_append]
  by_cases hlow : i < 8
  · simp [hlow, hi']
  · simp [hlow, hi', BitVec.getLsbD_of_ge lo i (Nat.not_lt.1 hlow)]

theorem replyStatus_unrecognised {code : Byte} (h : isUnrecognisedCode code = true) (req : Slot) (rest : List Byte) :
    replyStatus req (code :: rest) = some .remote := by
  have hclass : replyClass (code :: rest) = .unrecognised := by
    rw [replyClass]
    revert code; decide
  rw [replyStatus, hclass]

/-- A frame received whole resolves the request in flight by the status R248 to R255 give it. -/
theorem feedHex_resolves {raw : List Byte} {now : Time} {req : Slot} {others : List Slot} {s : State} {st : Status}
    (hst : replyStatus req raw = some st) (hq : s.q = req :: others) (hok : s.nowOk now = true) (hfs : s.fs ≠ .hex)
    (hc : raw.length + 1 ≤ s.cfg.hexRawCap) :
    feedHex raw now s = maybeConnect now (resolveHead st (some raw) now (framed now raw s)) := by
  rw [feedHex_received hok hfs hc, onHexReply_cons (s := framed now raw s) hq, hst]

/-- A frame that matches no request only connects (R248, R249). -/
theorem feedHex_unmatched {raw : List Byte} {now : Time} {s : State} (hnone : s.q = [] ∨ ∀ req, replyStatus req raw = none)
    (hok : s.nowOk now = true) (hfs : s.fs ≠ .hex) (hc : raw.length + 1 ≤ s.cfg.hexRawCap) :
    feedHex raw now s = maybeConnect now (framed now raw s) := by
  rw [feedHex_received hok hfs hc]
  match hq : s.q with
  | [] => rw [onHexReply_empty (s := framed now raw s) hq]
  | req :: others =>
    obtain hnil | hnone := hnone
    · cases hq.symm.trans hnil
    · rw [onHexReply_cons (s := framed now raw s) hq, hnone req]

end Sys2Proof.Machine

namespace Sys2Proof.Claims

open Sys2Proof.Machine

/-- Every hex_reply row is FEED_HEX of its frame (R123). -/
theorem exec_replies {code : Byte} {rest : List Byte} {now : Time} {i : Instr} (h : Replies code rest now i) (s : State) :
    exec i s = .next (feedHex (code :: rest) now s) := by
  cases h with
  | done hc | unknown hc | error hc | pingResp hc | get hc | set hc | async hc => subst hc; rfl
  | unrecognised => rfl

theorem perform_feedOps (now : Time) (bytes : List Byte) (s : State) :
    perform (feedOps now bytes) s = .next (feed now bytes s) := by
  induction bytes generalizing s with
  | nil => rfl
  | cons b bs ih => exact ih (rxByte b now s)

/-- Settles O48, by where the frame's bytes go: into the buffer, into a `HEX` frame already open, beyond the buffer, or
nowhere. -/
theorem replyFrameReceivedWhole : Obligations.ReplyFrameReceivedWhole := by
  intro code rest now i s hi
  rw [exec_replies hi]
  refine ⟨fun hok hfs hc => ?_, fun hok hfs => ?_, fun hok hfs hc => ?_, fun hok => ?_⟩
  · rw [feedHex_received (raw := code :: rest) hok hfs hc]
  · rw [feedHex_in_hex hok hfs]; rfl
  · rw [feedHex_overflow (raw := code :: rest) hok hfs hc]; rfl
  · exact congrArg _ (feed_refused hok _ _)

/-- Settles O49: `Done` is SUCCESS for every request. -/
theorem doneResolvesSuccess : Obligations.DoneResolvesSuccess := fun rest _ _ _ s hq hok hfs hc =>
  (exec_replies (.done rfl) s).trans (congrArg _ (feedHex_resolves (raw := 0x01 :: rest) rfl hq hok hfs hc))

/-- Settles O50: a `PingResp` looks at the request's command alone. -/
theorem pingRespMatchesPingOnly : Obligations.PingRespMatchesPingOnly := fun rest _ _ _ s hq hok hfs hc =>
  (exec_replies (.pingResp rfl) s).trans (congrArg _ (feedHex_resolves (raw := 0x05 :: rest) rfl hq hok hfs hc))

/-- The two codes of a register reply, by their rows. -/
theorem replies_register {code : Byte} {rest : List Byte} {now : Time} {i : Instr}
    (h : i = .repGet rest now ∧ code = 0x07 ∨ i = .repSet rest now ∧ code = 0x08) :
    Replies code rest now i ∧ ∀ req, replyStatus req (code :: rest) = some (matchRegister req (code :: rest)) := by
  obtain ⟨rfl, rfl⟩ | ⟨rfl, rfl⟩ := h
  · exact ⟨.get rfl, fun _ => rfl⟩
  · exact ⟨.set rfl, fun _ => rfl⟩

/-- Settles O51: command and register id agree, so the flags byte decides (R253). -/
theorem matchingRegisterReplyByFlags : Obligations.MatchingRegisterReplyByFlags := by
  intro code lo hi flags payload now i req others s hrow hq hcmd hreg hok hfs hc
  obtain ⟨hi', hst⟩ := replies_register hrow
  have hmatch : matchRegister req (code :: lo :: hi :: flags :: payload) = if flags = 0x00 then .success else .flags := by
    rw [matchRegister, regOf_eq_append, if_pos ⟨hcmd, hreg⟩]
  rw [exec_replies hi', feedHex_resolves (hst req) hq hok hfs hc, hmatch]

/-- Settles O52: some conjunct of the match fails, or the reply is too short for one. -/
theorem mismatchedRegisterReplyUnexpected : Obligations.MismatchedRegisterReplyUnexpected := by
  intro code rest now i req others s hrow hq hbad hok hfs hc
  obtain ⟨hi', hst⟩ := replies_register hrow
  have hmatch : matchRegister req (code :: rest) = .unexpected := by
    match rest, hbad with
    | [], _ | [_], _ | [_, _], _ => rfl
    | lo :: hi :: flags :: more, hbad =>
      rw [matchRegister, regOf_eq_append, if_neg]
      rintro ⟨hcmd, hreg⟩
      obtain hshort | hne | ⟨lo', hi', more', heq, hne⟩ := hbad
      · simp only [List.length_cons] at hshort; omega
      · exact hne hcmd
      · cases heq; exact hne hreg
  rw [exec_replies hi', feedHex_resolves (hst req) hq hok hfs hc, hmatch]

/-- Settles O53: `Unknown`, `Error`, the unrecognised codes and the empty frame are REMOTE for every request. -/
theorem remoteRepliesResolveRemote : Obligations.RemoteRepliesResolveRemote := by
  refine ⟨?_, ?_, ?_⟩
  · intro code rest now i req others s hrow hq hok hfs hc
    have hrow' : Replies code rest now i ∧ replyStatus req (code :: rest) = some .remote := by
      obtain ⟨rfl, rfl⟩ | ⟨rfl, rfl⟩ | ⟨rfl, hcode⟩ := hrow
      · exact ⟨.unknown rfl, rfl⟩
      · exact ⟨.error rfl, rfl⟩
      · exact ⟨.unrecognised hcode, replyStatus_unrecognised hcode req rest⟩
    rw [exec_replies hrow'.1, feedHex_resolves hrow'.2 hq hok hfs hc]
  · intro now i req others s hi hq hok hfs hp hs hlen
    have hempty : s.rxc.raw.dropLast = [] := List.length_eq_zero_iff.1 (by rw [List.length_dropLast]; omega)
    rw [validHexFrameDelivered i now s hi hok hfs hp hs, hempty, onHexReply_cons (s := received now [] s) hq]
    rfl
  · intro now req others s hq hok hfs hc
    rw [perform_feedOps]
    exact congrArg _ (feedHex_resolves (raw := []) rfl hq hok hfs hc)

/-- Settles O54. -/
theorem unsolicitedFramesOnlyConnect : Obligations.UnsolicitedFramesOnlyConnect := by
  constructor
  · intro code rest now i s hi hnone hok hfs hc
    have hnone' : s.q = [] ∨ ∀ req, replyStatus req (code :: rest) = none := by
      obtain rfl | hq := hnone
      · exact .inr fun _ => rfl
      · exact .inl hq
    rw [exec_replies hi, feedHex_unmatched hnone' hok hfs hc]
  · intro now s hq hok hfs hc
    rw [perform_feedOps]
    exact congrArg _ (feedHex_unmatched (raw := []) (.inl hq) hok hfs hc)

/-- Settles O37: the frame is received or in error, and what follows a received one is outside the decoder. -/
theorem nestedHexKeepsTextFrame : Obligations.NestedHexKeepsTextFrame := by
  intro ds vs now s t hd heven hc hok hfs h
  rw [perform_feedOps] at h
  cases h
  rw [show feed now ([0x3A] ++ ds ++ [0x0A]) s = feed now (chColon :: (ds ++ [chLf])) s from rfl]
  by_cases hsum : (spell vs).sum = 0x55
  · rw [if_pos hsum, feed_frame_valid hok hfs hd heven hc hsum]
    obtain ⟨more, hev, -⟩ := NoErrorAdded.after_frame (s := s) (u := framed now (spell vs).dropLast s) rfl rfl
      ((onHexReply_noError (spell vs).dropLast now _).trans (maybeConnect_noError now _))
    obtain ⟨hfs', hbackup, hrxc, hname, hvalue, hrecs, htsum⟩ := matched_sameDecoder (spell vs).dropLast now
      (framed now (spell vs).dropLast s)
    exact ⟨⟨hfs', hname, hvalue, hrecs, htsum⟩, hbackup, hrxc, more, hev⟩
  · rw [if_neg hsum, feed_frame_checksumError hok hfs hd heven hc hsum]
    exact ⟨⟨rfl, rfl, rfl, rfl, rfl⟩, rfl, rfl, [], rfl⟩

end Sys2Proof.Claims
end

section
/-! PROOF. O38: a TEXT frame fed at one `now` (R110, R111, R204).  Each part of the frame leaves the decoder where the next
part begins, with the part's bytes added to the running sum. -/

namespace Sys2Proof.Machine

open Sys2Proof.Claims

/-- Inside a TEXT frame, with the given buffers and running sum. -/
def inText (fs : FrameState) (name value : List Byte) (recs : List TextRecord) (sum : Byte) (s : State) : State :=
  { s with fs := fs, txtName := name, txtValue := value, txtRec := recs, txtSum := sum }

theorem Settled.inText {now : Time} {s : State} (h : Settled now s) (fs : FrameState) (name value : List Byte)
    (recs : List TextRecord) (sum : Byte) : Settled now (inText fs name value recs sum s) :=
  h.of_decoderOnly ⟨rfl, rfl, rfl, rfl, rfl, rfl, rfl, rfl, rfl, rfl, rfl, rfl, rfl⟩

section
variable {now : Time} {s : State} {name value : List Byte} {recs : List TextRecord}

/-! ## One byte of a TEXT frame -/

theorem rxByte_name (h : Settled now s) {b : Byte} (hb : b ≠ chColon ∧ b ≠ chTab) (hroom : name.length ≠ s.cfg.textNameMax)
    (sum : Byte) : rxByte b now (inText .textName name value recs sum s) =
      inText .textName (name ++ [b]) value recs (sum + b) s :=
  (h.inText _ _ _ _ _).rxByte_none ((fdStep_name_byte rfl hb.1 hb.2).trans
    (congrArg (·, FdResult.none) (nameByte_store (s := inText .textName name value recs sum s) hroom b)))

theorem rxByte_name_tab (h : Settled now s) (hname : name ≠ checksumName) (sum : Byte) :
    rxByte chTab now (inText .textName name value recs sum s) = inText .textValue name [] recs (sum + chTab) s :=
  (h.inText _ _ _ _ _).rxByte_none ((fdStep_name_tab rfl).trans
    (congrArg (·, FdResult.none) (endName_other (s := inText .textName name value recs sum s) hname)))

theorem rxByte_checksumName_tab (h : Settled now s) (sum : Byte) :
    rxByte chTab now (inText .textName checksumName value recs sum s) =
      inText .textChecksum checksumName value recs (sum + chTab) s :=
  (h.inText _ _ _ _ _).rxByte_none ((fdStep_name_tab rfl).trans
    (congrArg (·, FdResult.none) (endName_checksum (s := inText .textName checksumName value recs sum s) rfl)))

theorem rxByte_value (h : Settled now s) {b : Byte} (hb : b ≠ chColon ∧ b ≠ chCr ∧ b ≠ chLf)
    (hroom : value.length ≠ s.cfg.textValueMax) (sum : Byte) :
    rxByte b now (inText .textValue name value recs sum s) = inText .textValue name (value ++ [b]) recs (sum + b) s :=
  (h.inText _ _ _ _ _).rxByte_none ((fdStep_value_byte rfl hb.1 hb.2.1 hb.2.2).trans
    (congrArg (·, FdResult.none) (valueByte_store (s := inText .textValue name value recs sum s) hroom b)))

theorem rxByte_value_cr (h : Settled now s) (sum : Byte) :
    rxByte chCr now (inText .textValue name value recs sum s) = inText .textValue name value recs (sum + chCr) s :=
  (h.inText _ _ _ _ _).rxByte_none (fdStep_valueCr rfl)

theorem rxByte_value_lf (h : Settled now s) (hroom : recs.length ≠ s.cfg.textRecordsMax) (sum : Byte) :
    rxByte chLf now (inText .textValue name value recs sum s) =
      inText .textName [] [] (recs ++ [{ name := name, value := value }]) (sum + chLf) s :=
  (h.inText _ _ _ _ _).rxByte_none ((fdStep_value_lf rfl).trans
    (congrArg (·, FdResult.none) (endRecord_store (s := inText .textValue name value recs sum s) hroom)))

/-! ## The parts of a TEXT frame -/

/-- The bytes of a name are summed and stored (R188). -/
theorem feed_name (h : Settled now s) {bs : List Byte} (hbs : ∀ b ∈ bs, b ≠ chColon ∧ b ≠ chTab)
    (hroom : name.length + bs.length ≤ s.cfg.textNameMax) (sum : Byte) (after : List Byte) :
    feed now (bs ++ after) (inText .textName name value recs sum s) =
      feed now after (inText .textName (name ++ bs) value recs (sum + bs.sum) s) := by
  induction bs generalizing name sum with
  | nil => simp
  | cons b bs ih =>
    obtain ⟨hb, hbs⟩ := List.forall_mem_cons.1 hbs
    rw [List.length_cons] at hroom
    rw [List.cons_append, feed_cons, rxByte_name h hb (by omega),
      ih hbs (by simp only [List.length_append, List.length_singleton]; omega)]
    simp [add_assoc]

/-- The bytes of a value are summed and stored (R192). -/
theorem feed_value (h : Settled now s) {bs : List Byte} (hbs : ∀ b ∈ bs, b ≠ chColon ∧ b ≠ chCr ∧ b ≠ chLf)
    (hroom : value.length + bs.length ≤ s.cfg.textValueMax) (sum : Byte) (after : List Byte) :
    feed now (bs ++ after) (inText .textValue name value recs sum s) =
      feed now after (inText .textValue name (value ++ bs) recs (sum + bs.sum) s) := by
  induction bs generalizing value sum with
  | nil => simp
  | cons b bs ih =>
    obtain ⟨hb, hbs⟩ := List.forall_mem_cons.1 hbs
    rw [List.length_cons] at hroom
    rw [List.cons_append, feed_cons, rxByte_value h hb (by omega),
      ih hbs (by simp only [List.length_append, List.length_singleton]; omega)]
    simp [add_assoc]

/-- The CR before a record's LF is summed and otherwise ignored (R189). -/
theorem feed_optionalCr (h : Settled now s) (cr : Bool) (sum : Byte) (after : List Byte) :
    feed now ((if cr then [chCr] else []) ++ after) (inText .textValue name value recs sum s) =
      feed now after (inText .textValue name value recs (sum + (if cr then [chCr] else []).sum) s) := by
  cases cr with
  | false => simp
  | true => rw [if_pos rfl, List.singleton_append, feed_cons, rxByte_value_cr h, List.sum_singleton]

/-- A record leaves the decoder at the next name, with the record stored (R186, R190). -/
theorem feed_record (h : Settled now s) {r : TextRecord × Bool} (hr : Admissible s.cfg r.1)
    (hroom : recs.length ≠ s.cfg.textRecordsMax) (sum : Byte) (after : List Byte) :
    feed now (recordBytes r ++ after) (inText .textName [] [] recs sum s) =
      feed now after (inText .textName [] [] (recs ++ [r.1]) (sum + (recordBytes r).sum) s) := by
  obtain ⟨hname, hnameLen, hother, hvalue, hvalueLen⟩ := hr
  have hbytes : recordBytes r ++ after =
      r.1.name ++ (chTab :: (r.1.value ++ ((if r.2 then [chCr] else []) ++ (chLf :: after)))) := by simp [recordBytes]
  rw [hbytes, feed_name h hname (by simpa using hnameLen), List.nil_append, feed_cons, rxByte_name_tab h hother,
    feed_value h hvalue (by simpa using hvalueLen), List.nil_append, feed_optionalCr h, feed_cons, rxByte_value_lf h hroom]
  congr 2
  simp [recordBytes, add_assoc]

/-- Records one after another. -/
theorem feed_records (h : Settled now s) {rs : List (TextRecord × Bool)} (hrs : ∀ r ∈ rs, Admissible s.cfg r.1)
    (hroom : recs.length + rs.length ≤ s.cfg.textRecordsMax) (sum : Byte) (after : List Byte) :
    feed now (rs.flatMap recordBytes ++ after) (inText .textName [] [] recs sum s) =
      feed now after (inText .textName [] [] (recs ++ rs.map Prod.fst) (sum + (rs.flatMap recordBytes).sum) s) := by
  induction rs generalizing recs sum with
  | nil => simp
  | cons r rs ih =>
    obtain ⟨hr, hrs⟩ := List.forall_mem_cons.1 hrs
    rw [List.length_cons] at hroom
    rw [List.flatMap_cons, List.append_assoc, feed_record h hr (by omega),
      ih hrs (by simp only [List.length_append, List.length_singleton]; omega)]
    simp [add_assoc]

/-- The name `"Checksum"` and its TAB (R186). -/
theorem feed_checksumName (h : Settled now s) (hlen : 8 ≤ s.cfg.textNameMax) (sum : Byte) (after : List Byte) :
    feed now (checksumName ++ chTab :: after) (inText .textName [] [] recs sum s) =
      feed now after (inText .textChecksum checksumName [] recs (sum + (checksumName.sum + chTab)) s) := by
  rw [feed_name h (by decide) (by simpa [checksumName] using hlen), List.nil_append, feed_cons, rxByte_checksumName_tab h,
    add_assoc]

end

/-- Everything of a TEXT frame before its checksum byte, fed from `IDLE`. -/
theorem feed_text_to_checksum {now : Time} {s : State} (hok : s.nowOk now = true) (hfs : s.fs = .idle)
    (htext : s.cfg.textEnabled = true) (hname : 8 ≤ s.cfg.textNameMax) {recs : List (TextRecord × Bool)}
    (hroom : recs.length ≤ s.cfg.textRecordsMax) (hrecs : ∀ r ∈ recs, Admissible s.cfg r.1) (x : Byte) :
    ∃ sum, sum + x = (textBytes recs x).sum ∧ feed now (textBytes recs x) s =
      feed now [x] (inText .textChecksum checksumName [] (recs.map Prod.fst) sum (heard now s)) := by
  refine ⟨chLf + (recs.flatMap recordBytes).sum + (checksumName.sum + chTab), by simp [textBytes, add_assoc], ?_⟩
  have hsettled := settled_heard hok
  have hbytes : textBytes recs x = chLf :: (recs.flatMap recordBytes ++ (checksumName ++ chTab :: [x])) := by
    simp [textBytes]
  have hstart : rxByte chLf now s = inText .textName [] [] [] chLf (heard now s) :=
    rxByte_none hok (fdStep_idle_lf (s := heard now s) hfs htext)
  have hroom' : ([] : List TextRecord).length + recs.length ≤ (heard now s).cfg.textRecordsMax := by
    rw [List.length_nil, Nat.zero_add]; exact hroom
  rw [hbytes, feed_cons, hstart, feed_records hsettled hrecs hroom', List.nil_append, feed_checksumName hsettled hname]

end Sys2Proof.Machine

namespace Sys2Proof.Claims

open Sys2Proof.Machine

/-- Settles O38: at the checksum byte the running sum is that of the whole frame. -/
theorem textFrameDeliveredIffSumZero : Obligations.TextFrameDeliveredIffSumZero := by
  intro recs x now s hok hfs htext hwf hroom hrecs hcolon
  have hname : 8 ≤ s.cfg.textNameMax := by
    simp only [Config.wf, Bool.and_eq_true, decide_eq_true_eq] at hwf
    omega
  obtain ⟨sum, hsum, hfeed⟩ := feed_text_to_checksum hok hfs htext hname hroom hrecs x
  have hsettled : Settled now (inText .textChecksum checksumName [] (recs.map Prod.fst) sum (heard now s)) :=
    (settled_heard hok).inText _ _ _ _ _
  have hbyte := fdStep_checksum_byte
    (s := inText .textChecksum checksumName [] (recs.map Prod.fst) sum (heard now s)) (b := x) rfl hcolon
  rw [perform_feedOps, hfeed, feed_cons, feed_nil, ← hsum]
  constructor
  · intro h
    rw [hsettled.rxByte_textFrame (hbyte.trans (checksumByte_zero h))]
    exact congrArg (fun u => Host.Outcome.next (maybeConnect now u)) (with_fs_eq (s := { heard now s with
      txtName := [], txtValue := [], txtRec := [], txtSum := 0, ev := s.ev ++ [.textFrame (recs.map Prod.fst)] }) hfs)
  · intro h
    rw [hsettled.rxByte_none (hbyte.trans (checksumByte_nonzero h))]
    rfl

end Sys2Proof.Claims
end

section
/-! PROOF. O6 to O8, O55, O56, O58, O59: the step, a TICK, RESET, and what each kind of operation leaves alone (R47). -/

namespace Sys2Proof.Machine

open Sys2Proof.Claims

/-! ## The tick -/

theorem linkExpired_iff {now : Time} {s : State} :
    s.linkExpired now = true ↔ s.connected = true ∧ s.cfg.linkTimeout.toNat ≤ (now - s.lastRx).toNat := by
  rw [State.linkExpired, Bool.and_eq_true, decide_eq_true_eq, BitVec.le_def, elapsed]

theorem commandExpired_iff {now : Time} {s : State} :
    s.commandExpired now = true ↔ s.q ≠ [] ∧ s.cfg.commandTimeout.toNat ≤ (now - s.qTxTime).toNat := by
  rw [State.commandExpired, State.inFlight, Bool.and_eq_true, decide_eq_true_eq, BitVec.le_def, elapsed, Bool.not_eq_true',
    ← Bool.not_eq_true, List.isEmpty_iff]

theorem tickBody_link {now : Time} {s : State} (h : s.linkExpired now = true) : tickBody now s = linkDown s := by
  rw [tickBody, if_pos h]

theorem tickBody_command {now : Time} {s : State} (hlink : ¬ s.linkExpired now = true) (h : s.commandExpired now = true) :
    tickBody now s = resolveHead .timeout none now s := by
  rw [tickBody, if_neg hlink, if_pos h]

theorem tickBody_quiet {now : Time} {s : State} (hlink : ¬ s.linkExpired now = true) (h : ¬ s.commandExpired now = true) :
    tickBody now s = s := by
  rw [tickBody, if_neg hlink, if_neg h]

/-- Every TICK is refused, takes the link down, or leaves the decoder and the link alone (R259). -/
theorem tick_cases (now : Time) (s : State) :
    tick now s = refuse s ∨ tick now s = linkDown (giveBack none (stampTick now s)) ∧ s.connected = true ∨
    ∃ u, tick now s = u ∧ (u = giveBack none (stampTick now s) ∨
      u = resolveHead .timeout none now (giveBack none (stampTick now s))) := by
  cases hadm : (s.nowOk now && s.tickGapOk now) with
  | false => exact .inl (by rw [tick, hadm]; rfl)
  | true =>
    rw [Bool.and_eq_true] at hadm
    rw [tick_admitted hadm.1 hadm.2]
    by_cases hlink : (giveBack none (stampTick now s)).linkExpired now = true
    · exact .inr (.inl ⟨tickBody_link hlink, (linkExpired_iff.1 hlink).1⟩)
    · by_cases hcmd : (giveBack none (stampTick now s)).commandExpired now = true
      · exact .inr (.inr ⟨_, tickBody_command hlink hcmd, .inr rfl⟩)
      · exact .inr (.inr ⟨_, tickBody_quiet hlink hcmd, .inl rfl⟩)

/-! ## Frames -/

theorem request_frame (cmd : Byte) (reg : Option RegId) (payload : List Byte) (tag : Tag) (now : Time) (s : State) :
    SameDecoder s (request cmd reg payload tag now s) ∧ (request cmd reg payload tag now s).connected = s.connected ∧
    (request cmd reg payload tag now s).lastRx = s.lastRx ∧
    (request cmd reg payload tag now s).sweepActive = s.sweepActive ∧
    (request cmd reg payload tag now s).sweepCursor = s.sweepCursor ∧
    (request cmd reg payload tag now s).qHead = s.qHead ∧
    (request cmd reg payload tag now s).inq = s.inq ∧ (request cmd reg payload tag now s).cfg = s.cfg := by
  rw [request]
  split
  · exact ⟨⟨rfl, rfl, rfl, rfl, rfl, rfl, rfl⟩, rfl, rfl, rfl, rfl, rfl, rfl, rfl⟩
  · cases hok : s.nowOk now with
    | false =>
      rw [timed_bad hok]
      exact ⟨⟨rfl, rfl, rfl, rfl, rfl, rfl, rfl⟩, rfl, rfl, rfl, rfl, rfl, rfl, rfl⟩
    | true =>
      rw [timed_ok hok, requestBody, enqueue_frame]
      exact ⟨⟨rfl, rfl, rfl, rfl, rfl, rfl, rfl⟩, rfl, rfl, rfl, rfl, rfl, rfl, rfl⟩

/-- Reply matching and connection write only the transmit queue, the connection and the trace. -/
theorem deliver_frame (now : Time) {fd : State → State × FdResult} (hfd : ∀ x, ByteFrame x (fd x)) (s : State) :
    (deliver now fd s).lastRx = now ∧ (deliver now fd s).refused = s.refused ∧ (deliver now fd s).lastNow = s.lastNow ∧
    (deliver now fd s).inq = s.inq ∧ (deliver now fd s).cfg = s.cfg := by
  obtain ⟨hd, -⟩ := hfd (giveBack none { s with lastRx := now })
  cases hr : fd (giveBack none { s with lastRx := now }) with
  | mk t result =>
    rw [hr] at hd
    cases result with
    | none => rw [deliver_none hr]; exact ⟨hd.lastRx, hd.refused, hd.lastNow, hd.inq, hd.cfg⟩
    | hexFrame raw =>
      rw [deliver_hexFrame hr, maybeConnect_frame, onHexReply_frame]
      exact ⟨hd.lastRx, hd.refused, hd.lastNow, hd.inq, hd.cfg⟩
    | textFrame recs =>
      rw [deliver_textFrame hr, maybeConnect_frame]
      exact ⟨hd.lastRx, hd.refused, hd.lastNow, hd.inq, hd.cfg⟩

theorem timed_deliver_inq (now : Time) {fd : State → State × FdResult} (hfd : ∀ x, ByteFrame x (fd x)) (s : State) :
    (timed now (deliver now fd) s).inq = s.inq ∧ (timed now (deliver now fd) s).cfg = s.cfg := by
  cases hok : s.nowOk now with
  | false => rw [timed_bad hok]; exact ⟨rfl, rfl⟩
  | true =>
    rw [timed_ok hok]
    obtain ⟨-, -, -, hinq, hcfg⟩ := deliver_frame now hfd (stamp now s)
    exact ⟨hinq, hcfg⟩

theorem rxByte_accepted (b : Byte) {now : Time} {s : State} (hok : s.nowOk now = true) :
    (rxByte b now s).lastRx = now ∧ (rxByte b now s).refused = s.refused ∧ (rxByte b now s).lastNow = some now := by
  obtain ⟨hrx, href, hnow, -⟩ := deliver_frame now (fdStep_frame b) (stamp now s)
  rw [rxByte, timed_ok hok]
  exact ⟨hrx, href, hnow⟩

/-- Bytes fed at an accepted `now` are all accepted. -/
theorem feed_accepted (b : Byte) (bs : List Byte) {now : Time} {s : State} (hok : s.nowOk now = true) :
    (feed now (b :: bs) s).lastRx = now ∧ (feed now (b :: bs) s).refused = s.refused ∧
    (feed now (b :: bs) s).lastNow = some now := by
  induction bs generalizing b s with
  | nil => exact rxByte_accepted b hok
  | cons c cs ih =>
    obtain ⟨hrx, href, hnow⟩ := ih c (rxByte_nowOk b hok)
    exact ⟨hrx, href.trans (rxByte_accepted b hok).2.1, hnow⟩

theorem feed_inq (now : Time) (bs : List Byte) (s : State) : (feed now bs s).inq = s.inq ∧ (feed now bs s).cfg = s.cfg := by
  induction bs generalizing s with
  | nil => exact ⟨rfl, rfl⟩
  | cons b bs ih =>
    obtain ⟨hinq, hcfg⟩ := timed_deliver_inq now (fdStep_frame b) s
    exact ⟨(ih _).1.trans hinq, (ih _).2.trans hcfg⟩

theorem tick_frame (now : Time) (s : State) :
    (tick now s).lastRx = s.lastRx ∧ ((tick now s).connected = s.connected → SameDecoder s (tick now s)) ∧
    (tick now s).inq = s.inq ∧ (tick now s).cfg = s.cfg := by
  obtain h | ⟨h, hc⟩ | ⟨u, h, rfl | rfl⟩ := tick_cases now s <;> rw [h]
  · exact ⟨rfl, fun _ => ⟨rfl, rfl, rfl, rfl, rfl, rfl, rfl⟩, rfl, rfl⟩
  · rw [linkDown_eq]
    exact ⟨rfl, fun hsame => absurd (hsame.trans hc) Bool.false_ne_true, rfl, rfl⟩
  · exact ⟨rfl, fun _ => ⟨rfl, rfl, rfl, rfl, rfl, rfl, rfl⟩, rfl, rfl⟩
  · rw [resolveHead_frame]
    exact ⟨rfl, fun _ => ⟨rfl, rfl, rfl, rfl, rfl, rfl, rfl⟩, rfl, rfl⟩

theorem exec_inq {i : Instr} {s t : State} (h : exec i s = .next t) : t.inq = s.inq ∧ t.cfg = s.cfg := by
  cases exec_effect h with
  | byte now fd hfd => exact timed_deliver_inq now hfd s
  | frame raw now => exact feed_inq now _ s
  | ask cmd reg payload tag now =>
    obtain ⟨-, -, -, -, -, -, hinq, hcfg⟩ := request_frame cmd reg payload tag now s
    exact ⟨hinq, hcfg⟩
  | tick now => exact (tick_frame now s).2.2
  | codecEncode | codecReencode | isConnected | reset | reservedOp => exact ⟨rfl, rfl⟩

end Sys2Proof.Machine

namespace Sys2Proof.Claims

open Sys2Proof.Machine

/-- Settles O55: the link test fails, and the command test decides. -/
theorem commandTimesOutAtTick : Obligations.CommandTimesOutAtTick := by
  intro now s hnow hgap hlink
  have hlink' : ¬ (giveBack none (stampTick now s)).linkExpired now = true := by
    rw [linkExpired_iff]
    exact fun ⟨hc, hlate⟩ => Nat.not_lt.2 hlate (hlink hc)
  have htick : exec (.tick now) s = .next (tickBody now (giveBack none (stampTick now s))) :=
    congrArg _ (tick_admitted hnow hgap)
  constructor
  · intro hq hlate
    exact htick.trans (congrArg _ (tickBody_command hlink' (commandExpired_iff.2 ⟨hq, hlate⟩)))
  · intro hearly
    refine htick.trans (congrArg _ (tickBody_quiet hlink' ?_))
    rw [commandExpired_iff]
    rintro ⟨hq, hlate⟩
    obtain h | h := hearly
    · exact hq h
    · exact Nat.not_lt.2 hlate h

/-- Settles O56: the link test comes first, and `linkDown` flushes the ring. -/
theorem linkDownFlushesRing : Obligations.LinkDownFlushesRing := by
  intro now s hinv hnow hgap hc hlate
  have hdown : tick now s = linkDown (giveBack none (stampTick now s)) :=
    (tick_admitted hnow hgap).trans (tickBody_link (linkExpired_iff.2 ⟨hc, hlate⟩))
  have hhead := linkDown_qHead (s := giveBack none (stampTick now s)) hinv.headBound
  refine congrArg Host.Outcome.next (hdown.trans ?_)
  rw [linkDown_eq, hhead]
  rfl

/-- Settles O58: `resetBlock` writes every field but the configuration and the input. -/
theorem resetConstructsFreshBlock : Obligations.ResetConstructsFreshBlock := fun _ => rfl

/-- Settles O8: every arm of `exec` answers `next`. -/
theorem everyOperationCompletes : Obligations.EveryOperationCompletes := by
  intro i s
  cases i <;> exact ⟨_, rfl⟩

/-- Settles O6, from the round trip: what is fetched is the encoded operation, and its bytes are not empty. -/
theorem stepRunsDecodedInstruction : Obligations.StepRunsDecodedInstruction := by
  intro s i rest hcfg hwf hinq
  have hfetch : fetch s = .ok (i, rest) := by rw [fetch, hinq]; exact decodeEncodeRoundTrip i rest hwf
  have hne : s.inq ≠ [] := by
    intro hnil
    rw [fetch, hnil] at hfetch
    cases hfetch
  rw [step, if_pos hcfg, if_neg hne, hfetch]

/-- Settles O7: the three tests of `step`, in order. -/
theorem stepWaitsOrMakesNoStep : Obligations.StepWaitsOrMakesNoStep := by
  refine ⟨fun s hcfg hnil => ?_, fun s hcfg => ?_, fun s e hcfg hne herr => ?_⟩
  · rw [step, if_pos hcfg, if_pos hnil]
  · rw [step, hcfg, if_neg Bool.false_ne_true]
  · rw [step, if_pos hcfg, if_neg hne, fetch, herr]

/-- Settles O59, clause by clause from the frame of each operation. -/
theorem operationsWriteOnlyTheirElements : Obligations.OperationsWriteOnlyTheirElements := by
  refine ⟨?_, ?_, ?_, ?_, ?_, ?_, fun i s t h => exec_inq h⟩
  · rintro i s t (⟨raw, rfl⟩ | ⟨chars, rfl⟩) h <;> cases h <;> rfl
  · intro s t h; cases h; rfl
  · intro cmd reg payload tag now i s t hi h
    rw [exec_asks hi] at h
    cases h
    obtain ⟨hdec, hc, hrx, hsweep, hcursor, hhead, -⟩ := request_frame cmd reg payload tag now s
    exact ⟨hdec, hc, hrx, hsweep, hcursor, hhead⟩
  · rintro b code rest now i s t (hi | hi) hok h
    · rw [exec_presents hi] at h
      cases h
      exact rxByte_accepted b hok
    · rw [exec_replies hi] at h
      cases h
      exact feed_accepted _ _ hok
  · intro now s t h
    cases h
    obtain ⟨hrx, hdec, -⟩ := tick_frame now s
    exact ⟨hrx, hdec⟩
  · intro s t h; cases h; rfl

end Sys2Proof.Claims
end

section
/-! PROOF. O10, O11: the invariants of Safety.lean in three parts, TEXT, HEX and ring.  A decoder operation touches the first
two only and a ring operation the third only, so each operation is checked against the part it writes. -/

namespace Sys2Proof.Machine

open Sys2Proof.Claims

/-! ## The parts of the invariant -/

/-- The clauses about the TEXT buffers. -/
structure TextInv (s : State) : Prop where
  nameBound : s.txtName.length ≤ s.cfg.textNameMax
  valueBound : s.txtValue.length ≤ s.cfg.textValueMax
  recBound : s.txtRec.length ≤ s.cfg.textRecordsMax
  idleEmpty : s.textState = .idle → s.txtName = [] ∧ s.txtValue = [] ∧ s.txtRec = [] ∧ s.txtSum = 0
  valueEmpty : s.textState ≠ .textValue → s.txtValue = []
  textDisabled : s.cfg.textEnabled = false → s.textState = .idle
  recsBound : ∀ r ∈ s.txtRec, r.name.length ≤ s.cfg.textNameMax ∧ r.value.length ≤ s.cfg.textValueMax
  checksumName : s.textState = .textChecksum → s.txtName = checksumName

/-- The clauses about the receive codec and the backup state. -/
structure HexInv (s : State) : Prop where
  backupIdle : s.fs ≠ .hex → s.fsBackup = .idle
  rxcBound : s.rxc.raw.length ≤ s.cfg.hexRawCap
  codecEmpty : s.fs ≠ .hex → s.rxc = Codec.init
  codecSum : s.rxc.sum = checksum s.rxc.raw

/-- The clauses about the ring and the sweep. -/
structure RingInv (s : State) : Prop where
  queueBound : s.q.length ≤ s.cfg.queueCap
  cursorBound : s.sweepCursor ≤ s.cfg.pollKeys.length
  headBound : s.qHead < s.cfg.queueCap
  slotsSound : ∀ r ∈ s.q, r.sound s.cfg

theorem inv_iff {s : State} : s.Inv ↔ TextInv s ∧ HexInv s ∧ RingInv s := by
  constructor
  · intro h
    exact ⟨⟨h.nameBound, h.valueBound, h.recBound, h.idleEmpty, h.valueEmpty, h.textDisabled, h.recsBound, h.checksumName⟩,
      ⟨h.backupIdle, h.rxcBound, h.codecEmpty, h.codecSum⟩, ⟨h.queueBound, h.cursorBound, h.headBound, h.slotsSound⟩⟩
  · rintro ⟨ht, hh, hr⟩
    exact { ht, hh, hr with }

/-- The decoder's two parts. -/
def DecoderInv (s : State) : Prop := TextInv s ∧ HexInv s

theorem TextInv.of_same {s t : State} (h : TextInv s) (hcfg : t.cfg = s.cfg) (hstate : t.textState = s.textState)
    (hname : t.txtName = s.txtName) (hvalue : t.txtValue = s.txtValue) (hrecs : t.txtRec = s.txtRec)
    (hsum : t.txtSum = s.txtSum) : TextInv t := by
  obtain ⟨h1, h2, h3, h4, h5, h6, h7, h8⟩ := h
  constructor <;> simpa only [hcfg, hstate, hname, hvalue, hrecs, hsum]

theorem DecoderInv.of_same {s t : State} (h : DecoderInv s) (hd : SameDecoder s t) (hcfg : t.cfg = s.cfg) :
    DecoderInv t := by
  obtain ⟨hfs, hbackup, hrxc, hname, hvalue, hrecs, hsum⟩ := hd
  obtain ⟨ht, h1, h2, h3, h4⟩ := h
  refine ⟨ht.of_same hcfg (by rw [State.textState, State.textState, hfs, hbackup]) hname hvalue hrecs hsum, ?_⟩
  constructor <;> simpa only [hcfg, hfs, hbackup, hrxc]

theorem RingInv.of_same {s t : State} (h : RingInv s) (hcfg : t.cfg = s.cfg) (hq : t.q = s.q) (hhead : t.qHead = s.qHead)
    (hcursor : t.sweepCursor = s.sweepCursor) : RingInv t := by
  obtain ⟨h1, h2, h3, h4⟩ := h
  constructor <;> simpa only [hcfg, hq, hhead, hcursor]

/-- What writes neither the decoder nor the ring keeps the invariants. -/
theorem inv_of_same {s t : State} (h : s.Inv) (hd : SameDecoder s t) (hcfg : t.cfg = s.cfg) (hq : t.q = s.q)
    (hhead : t.qHead = s.qHead) (hcursor : t.sweepCursor = s.sweepCursor) : t.Inv := by
  obtain ⟨ht, hh, hr⟩ := inv_iff.1 h
  obtain ⟨ht', hh'⟩ := DecoderInv.of_same ⟨ht, hh⟩ hd hcfg
  exact inv_iff.2 ⟨ht', hh', hr.of_same hcfg hq hhead hcursor⟩

/-! ## The decoder -/

theorem textState_toFrame {s : State} {b : BackupState} (h : s.fs = b.toFrame) : s.textState = b := by
  rw [State.textState, h]; cases b <;> rfl

theorem textState_hex {s : State} (h : s.fs = .hex) : s.textState = s.fsBackup := by rw [State.textState, h]

/-- Empty TEXT buffers in `IDLE`. -/
theorem TextInv.of_cleared {s : State} (hstate : s.textState = .idle) (hname : s.txtName = []) (hvalue : s.txtValue = [])
    (hrecs : s.txtRec = []) (hsum : s.txtSum = 0) : TextInv s where
  nameBound := by rw [hname]; exact Nat.zero_le _
  valueBound := by rw [hvalue]; exact Nat.zero_le _
  recBound := by rw [hrecs]; exact Nat.zero_le _
  idleEmpty := fun _ => ⟨hname, hvalue, hrecs, hsum⟩
  valueEmpty := fun _ => hvalue
  textDisabled := fun _ => hstate
  recsBound := by rw [hrecs]; exact nofun
  checksumName := fun h => absurd (hstate.symm.trans h) (by decide)

/-- A codec at its reset value, with a backup only in `HEX`. -/
theorem HexInv.of_init {s : State} (hbackup : s.fs ≠ .hex → s.fsBackup = .idle) (hrxc : s.rxc = Codec.init) : HexInv s where
  backupIdle := hbackup
  rxcBound := by rw [hrxc]; exact Nat.zero_le _
  codecEmpty := fun _ => hrxc
  codecSum := by rw [hrxc]; rfl

/-- Outside `HEX` an operation of the TEXT states leaves the codec as it finds it. -/
theorem HexInv.outside {s t : State} (h : HexInv s) (hfs : s.fs ≠ .hex) (hbackup : t.fsBackup = s.fsBackup)
    (hrxc : t.rxc = s.rxc) : HexInv t :=
  .of_init (fun _ => hbackup.trans (h.backupIdle hfs)) (hrxc.trans (h.codecEmpty hfs))

theorem decoderReset_inv (s : State) : DecoderInv (decoderReset s) :=
  ⟨.of_cleared rfl rfl rfl rfl rfl, .of_init (fun _ => rfl) rfl⟩

theorem textAbort_inv {s : State} (h : HexInv s) (hfs : s.fs ≠ .hex) (e : Event) : DecoderInv (textAbort (emit s e)) :=
  ⟨.of_cleared rfl rfl rfl rfl rfl, h.outside hfs rfl rfl⟩

theorem resumeBackup_inv {s : State} (h : TextInv s) (hfs : s.fs = .hex) (e : Event) :
    DecoderInv (resumeBackup (emit s e)) :=
  ⟨h.of_same rfl ((textState_toFrame rfl).trans (textState_hex hfs).symm) rfl rfl rfl rfl, .of_init (fun _ => rfl) rfl⟩

theorem enterHex_inv {s : State} (h : TextInv s) {from' : BackupState} (hfs : s.fs = from'.toFrame) :
    DecoderInv (enterHex from' s) :=
  ⟨h.of_same rfl (textState_toFrame hfs).symm rfl rfl rfl rfl, .of_init (fun hne => absurd rfl hne) rfl⟩

theorem startText_inv {s : State} (h : HexInv s) (hfs : s.fs = .idle) (ht : s.cfg.textEnabled = true) :
    DecoderInv (startText s) := by
  refine ⟨⟨Nat.zero_le _, Nat.zero_le _, Nat.zero_le _, fun hi => ?_, fun _ => rfl, fun hd => ?_, nofun, fun hi => ?_⟩,
    h.outside (by rw [hfs]; decide) rfl rfl⟩
  · cases hi
  · exact absurd (ht.symm.trans hd) (by decide)
  · cases hi

theorem nameByte_inv {s : State} (h : DecoderInv s) (hfs : s.fs = .textName) (b : Byte) : DecoderInv (nameByte b s) := by
  obtain ⟨ht, hh⟩ := h
  have hstate : s.textState = .textName := textState_toFrame hfs
  have hout : s.fs ≠ .hex := by rw [hfs]; decide
  by_cases hfull : s.txtName.length = s.cfg.textNameMax
  · rw [nameByte_full hfull]; exact textAbort_inv hh hout _
  · rw [nameByte_store hfull]
    have hroom := Nat.lt_of_le_of_ne ht.nameBound hfull
    exact ⟨{ ht with
      nameBound := by rw [List.length_append]; exact hroom
      idleEmpty := fun hi => absurd (hstate.symm.trans hi) (by decide)
      checksumName := fun hi => absurd (hstate.symm.trans hi) (by decide) }, hh.outside hout rfl rfl⟩

theorem endName_inv {s : State} (h : DecoderInv s) (hfs : s.fs = .textName) : DecoderInv (endName s) := by
  obtain ⟨ht, hh⟩ := h
  have hstate : s.textState = .textName := textState_toFrame hfs
  have hout : s.fs ≠ .hex := by rw [hfs]; decide
  have hvalue : s.txtValue = [] := ht.valueEmpty (by rw [hstate]; decide)
  have hdisabled : ∀ {p : Prop}, s.cfg.textEnabled = false → p :=
    fun hd => absurd (hstate.symm.trans (ht.textDisabled hd)) (by decide)
  by_cases hname : s.txtName = Machine.checksumName
  · rw [endName_checksum hname]
    exact ⟨{ ht with
      idleEmpty := nofun
      valueEmpty := fun _ => hvalue
      textDisabled := hdisabled
      checksumName := fun _ => hname }, hh.outside hout rfl rfl⟩
  · rw [endName_other hname]
    exact ⟨{ ht with
      valueBound := Nat.zero_le _
      idleEmpty := nofun
      valueEmpty := fun _ => rfl
      textDisabled := hdisabled
      checksumName := nofun }, hh.outside hout rfl rfl⟩

theorem valueCr_inv {s : State} (h : DecoderInv s) (hfs : s.fs = .textValue) : DecoderInv (valueCr s) := by
  obtain ⟨ht, hh⟩ := h
  have hstate : s.textState = .textValue := textState_toFrame hfs
  exact ⟨{ ht with idleEmpty := fun hi => absurd (hstate.symm.trans hi) (by decide) },
    hh.outside (by rw [hfs]; decide) rfl rfl⟩

theorem valueByte_inv {s : State} (h : DecoderInv s) (hfs : s.fs = .textValue) (b : Byte) : DecoderInv (valueByte b s) := by
  obtain ⟨ht, hh⟩ := h
  have hstate : s.textState = .textValue := textState_toFrame hfs
  have hout : s.fs ≠ .hex := by rw [hfs]; decide
  by_cases hfull : s.txtValue.length = s.cfg.textValueMax
  · rw [valueByte_full hfull]; exact textAbort_inv hh hout _
  · rw [valueByte_store hfull]
    have hroom := Nat.lt_of_le_of_ne ht.valueBound hfull
    exact ⟨{ ht with
      valueBound := by rw [List.length_append]; exact hroom
      idleEmpty := fun hi => absurd (hstate.symm.trans hi) (by decide)
      valueEmpty := fun hne => absurd hstate hne }, hh.outside hout rfl rfl⟩

theorem endRecord_inv {s : State} (h : DecoderInv s) (hfs : s.fs = .textValue) : DecoderInv (endRecord s) := by
  obtain ⟨ht, hh⟩ := h
  have hstate : s.textState = .textValue := textState_toFrame hfs
  have hout : s.fs ≠ .hex := by rw [hfs]; decide
  by_cases hfull : s.txtRec.length = s.cfg.textRecordsMax
  · rw [endRecord_full hfull]; exact textAbort_inv hh hout _
  · rw [endRecord_store hfull]
    have hroom := Nat.lt_of_le_of_ne ht.recBound hfull
    exact ⟨{
      nameBound := Nat.zero_le _
      valueBound := Nat.zero_le _
      recBound := by rw [List.length_append]; exact hroom
      idleEmpty := nofun
      valueEmpty := fun _ => rfl
      textDisabled := fun hd => absurd (hstate.symm.trans (ht.textDisabled hd)) (by decide)
      recsBound := fun r hr => (List.mem_append.1 hr).elim (ht.recsBound r)
        fun hr => by rw [List.mem_singleton.1 hr]; exact ⟨ht.nameBound, ht.valueBound⟩
      checksumName := nofun }, hh.outside hout rfl rfl⟩

theorem checksumByte_inv {s : State} (h : HexInv s) (hfs : s.fs = .textChecksum) (b : Byte) :
    DecoderInv (checksumByte b s).1 := by
  have hout : s.fs ≠ .hex := by rw [hfs]; decide
  by_cases hsum : s.txtSum + b = 0
  · rw [checksumByte_zero hsum]; exact textAbort_inv h hout _
  · rw [checksumByte_nonzero hsum]; exact textAbort_inv h hout _

/-- DecodeStep keeps the codec within its buffer and its sum the seed less the bytes. -/
theorem decodeStep_inv {s : State} (h : HexInv s) (hfs : s.fs = .hex) (b : Byte) :
    HexInv { s with rxc := (decodeStep s.cfg.hexRawCap s.cfg.hexLowerOk b s.rxc).1 } := by
  have hin : ∀ {p : Prop}, s.fs ≠ .hex → p := fun hne => absurd hfs hne
  obtain hk | ⟨v, -, hk⟩ | ⟨v, -, hroom, hk⟩ := decodeStep_codec s.cfg.hexRawCap s.cfg.hexLowerOk b s.rxc <;> rw [hk]
  · exact h
  · exact ⟨h.backupIdle, h.rxcBound, hin, h.codecSum⟩
  · refine ⟨h.backupIdle, ?_, hin, ?_⟩
    · have hlt := Nat.lt_of_le_of_ne h.rxcBound hroom
      rw [List.length_append]; exact hlt
    · rw [checksum_append, ← h.codecSum]

theorem fdHex_inv {s : State} (h : DecoderInv s) (hfs : s.fs = .hex) (b : Byte) : DecoderInv (fdHex b s).1 := by
  obtain ⟨ht, hh⟩ := h
  have hstep := decodeStep_inv hh hfs b
  rw [fdHex]
  cases hr : decodeStep s.cfg.hexRawCap s.cfg.hexLowerOk b s.rxc with
  | mk k result =>
    rw [hr] at hstep
    cases result with
    | valid raw => exact resumeBackup_inv (s := { s with rxc := k }) { ht with } hfs _
    | checksumError => exact resumeBackup_inv (s := { s with rxc := k }) { ht with } hfs _
    | codingError | overflow | terminated _ => exact decoderReset_inv _
    | _ => exact ⟨{ ht with }, hstep⟩

theorem fdStep_inv {s : State} (h : DecoderInv s) (b : Byte) : DecoderInv (fdStep b s).1 := by
  cases hfs : s.fs <;> simp only [fdStep, hfs]
  case hex => exact fdHex_inv h hfs b
  case idle =>
    rw [fdIdle]
    split_ifs with _ _ htext
    · exact enterHex_inv h.1 (from' := .idle) hfs
    · exact startText_inv h.2 hfs htext
    · exact h
    · exact h
  case textName =>
    rw [fdName]
    split_ifs
    · exact enterHex_inv h.1 (from' := .textName) hfs
    · exact endName_inv h hfs
    · exact nameByte_inv h hfs b
  case textValue =>
    rw [fdValue]
    split_ifs
    · exact enterHex_inv h.1 (from' := .textValue) hfs
    · exact valueCr_inv h hfs
    · exact endRecord_inv h hfs
    · exact valueByte_inv h hfs b
  case textChecksum =>
    rw [fdChecksum]
    split_ifs
    · exact enterHex_inv h.1 (from' := .textChecksum) hfs
    · exact checksumByte_inv h.2 hfs b

/-! ## The ring -/

theorem getSlot_sound (c : Config) (k : RegId) : (getSlot k).sound c := ⟨rfl, fun h => absurd rfl h⟩
theorem pingSlot_sound (c : Config) : pingSlot.sound c := ⟨rfl, fun h => absurd rfl h⟩

theorem enqueue_ringInv {s : State} (h : RingInv s) {r : Slot} (hr : r.sound s.cfg) (now : Time) :
    RingInv (enqueue r now s).1 := by
  have hslots : ∀ q : List Slot, q = s.q ++ [r] → ∀ r' ∈ q, r'.sound s.cfg := by
    rintro q rfl r' hr'
    exact (List.mem_append.1 hr').elim (h.slotsSound r') fun hr' => by rwa [List.mem_singleton.1 hr']
  by_cases hfull : s.q.length = s.cfg.queueCap
  · rw [enqueue_full hfull]; exact { h with }
  · by_cases hq : s.q = []
    · rw [enqueue_empty hq (fun h => hfull ((congrArg List.length hq).trans h.symm))]
      exact { h with
        queueBound := Nat.lt_of_le_of_lt (Nat.zero_le _) h.headBound
        slotsSound := hslots [r] (by rw [hq]; rfl) }
    · rw [enqueue_behind hq hfull]
      have hroom := Nat.lt_of_le_of_ne h.queueBound hfull
      exact { h with
        queueBound := by rw [List.length_append]; exact hroom
        slotsSound := hslots _ rfl }

theorem sweepNext_ringInv {s : State} (h : RingInv s) (now : Time) : RingInv (sweepNext now s) := by
  cases hk : s.cfg.pollKeys[s.sweepCursor]? with
  | none => rw [sweepNext_end hk]; exact { h with }
  | some k =>
    rw [sweepNext_key hk]
    obtain ⟨hlt, -⟩ := List.getElem?_eq_some_iff.1 hk
    exact enqueue_ringInv (s := { s with sweepCursor := s.sweepCursor + 1 }) { h with cursorBound := hlt }
      (getSlot_sound _ k) now

theorem popHead_ringInv {s : State} (h : RingInv s) {r : Slot} {rest : List Slot} (hq : s.q = r :: rest) (e : Event) :
    RingInv (popHead rest (emit s e)) where
  queueBound := by
    have hbound := h.queueBound
    rw [hq] at hbound
    exact Nat.le_of_succ_le hbound
  cursorBound := h.cursorBound
  headBound := Nat.mod_lt _ (Nat.lt_of_le_of_lt (Nat.zero_le _) h.headBound)
  slotsSound := fun r' hr' => h.slotsSound r' (by rw [hq]; exact List.mem_cons_of_mem r hr')

theorem resolveHead_ringInv {s : State} (h : RingInv s) (st : Status) (reply : Option (List Byte)) (now : Time) :
    RingInv (resolveHead st reply now s) := by
  match hq : s.q with
  | [] => rw [resolveHead_nil hq]; exact h
  | [r] =>
    rw [resolveHead_last hq]
    dsimp only
    split
    · exact sweepNext_ringInv (popHead_ringInv h hq _) now
    · exact popHead_ringInv h hq _
  | r :: r' :: more =>
    rw [resolveHead_next hq]
    exact (popHead_ringInv h hq (.resolved r.tag st reply)).of_same rfl rfl rfl rfl

theorem onHexReply_ringInv {s : State} (h : RingInv s) (raw : List Byte) (now : Time) : RingInv (onHexReply raw now s) := by
  obtain he | ⟨st, -, he, -⟩ := onHexReply_cases raw now s <;> rw [he]
  · exact h
  · exact resolveHead_ringInv h st _ now

theorem maybeConnect_ringInv {s : State} (h : RingInv s) (now : Time) : RingInv (maybeConnect now s) := by
  by_cases hc : s.connected = true
  · rw [maybeConnect_connected hc]; exact h
  · rw [Bool.not_eq_true] at hc
    cases hx : (s.cfg.hexEnabled && s.cfg.indexNonempty) with
    | false => rw [maybeConnect_quiet hc hx]; exact { h with }
    | true =>
      rw [maybeConnect_sweep hc hx]
      exact enqueue_ringInv (s := connecting s) { h with cursorBound := Nat.zero_le _ } (pingSlot_sound _) now

/-! ## Every operation -/

theorem refuse_inv {s : State} (h : s.Inv) : (refuse s).Inv :=
  inv_of_same h ⟨rfl, rfl, rfl, rfl, rfl, rfl, rfl⟩ rfl rfl rfl rfl

/-- Reply matching and connection write the ring part alone. -/
theorem matched_inv {s : State} (h : DecoderInv s) (hr : RingInv s) (raw : List Byte) (now : Time) :
    (maybeConnect now (onHexReply raw now s)).Inv := by
  have hcfg : (maybeConnect now (onHexReply raw now s)).cfg = s.cfg := by rw [maybeConnect_frame, onHexReply_frame]
  obtain ⟨ht, hh⟩ := h.of_same (matched_sameDecoder raw now s) hcfg
  exact inv_iff.2 ⟨ht, hh, maybeConnect_ringInv (onHexReply_ringInv hr raw now) now⟩

theorem maybeConnect_inv {s : State} (h : DecoderInv s) (hr : RingInv s) (now : Time) : (maybeConnect now s).Inv := by
  have hd : SameDecoder s (maybeConnect now s) ∧ (maybeConnect now s).cfg = s.cfg := by
    rw [maybeConnect_frame]; exact ⟨⟨rfl, rfl, rfl, rfl, rfl, rfl, rfl⟩, rfl⟩
  obtain ⟨ht, hh⟩ := h.of_same hd.1 hd.2
  exact inv_iff.2 ⟨ht, hh, maybeConnect_ringInv hr now⟩

theorem rxByte_inv {s : State} (h : s.Inv) (b : Byte) (now : Time) : (rxByte b now s).Inv := by
  cases hok : s.nowOk now with
  | false => rw [rxByte_refused hok]; exact refuse_inv h
  | true =>
    obtain ⟨ht, hh, hr⟩ := inv_iff.1
      (inv_of_same (t := heard now s) h ⟨rfl, rfl, rfl, rfl, rfl, rfl, rfl⟩ rfl rfl rfl rfl)
    obtain ⟨u, result, hfd, hd, hcases⟩ := rxByte_cases (b := b) hok
    have hdec : DecoderInv u := by
      have hinv := fdStep_inv ⟨ht, hh⟩ b
      rwa [hfd] at hinv
    have hring : RingInv u := hr.of_same hd.cfg hd.q hd.qHead hd.sweepCursor
    obtain ⟨raw, -, -, -, he⟩ | ⟨recs, -, -, -, he⟩ | ⟨-, he, -⟩ := hcases <;> rw [he]
    · exact matched_inv hdec hring raw now
    · exact maybeConnect_inv hdec hring now
    · exact inv_iff.2 ⟨hdec.1, hdec.2, hring⟩

theorem feed_inv {s : State} (h : s.Inv) (now : Time) (bs : List Byte) : (feed now bs s).Inv := by
  induction bs generalizing s with
  | nil => exact h
  | cons b bs ih => exact ih (rxByte_inv h b now)

theorem requestRaw_head (cmd : Byte) (reg : Option RegId) (payload : List Byte) :
    (requestRaw cmd reg payload).head? = some cmd := by
  cases reg <;> rfl

theorem request_inv {s : State} (h : s.Inv) (cmd : Byte) (reg : Option RegId) (payload : List Byte) (tag : Tag)
    (now : Time) : (request cmd reg payload tag now s).Inv := by
  by_cases hrefused : tag = .internal ∨ s.cfg.reqRawCap < (requestRaw cmd reg payload).length ∨ s.nowOk now = false
  · rw [request_refused hrefused]; exact refuse_inv h
  · rw [not_or, not_or, Nat.not_lt, Bool.not_eq_false] at hrefused
    obtain ⟨htag, hlen, hok⟩ := hrefused
    rw [request_admitted htag hlen hok]
    obtain ⟨ht, hh, hr⟩ := inv_iff.1
      (inv_of_same (t := stamp now s) h ⟨rfl, rfl, rfl, rfl, rfl, rfl, rfl⟩ rfl rfl rfl rfl)
    have hring := enqueue_ringInv hr (r := { raw := requestRaw cmd reg payload, cmd := cmd, reg := reg, tag := tag })
      ⟨requestRaw_head cmd reg payload, fun _ => hlen⟩ now
    have hd : SameDecoder (stamp now s) (requestBody cmd reg payload tag now (stamp now s)) ∧
        (requestBody cmd reg payload tag now (stamp now s)).cfg = (stamp now s).cfg := by
      rw [requestBody, enqueue_frame]; exact ⟨⟨rfl, rfl, rfl, rfl, rfl, rfl, rfl⟩, rfl⟩
    obtain ⟨ht', hh'⟩ := DecoderInv.of_same ⟨ht, hh⟩ hd.1 hd.2
    exact inv_iff.2 ⟨ht', hh', hring.of_same rfl rfl rfl rfl⟩

theorem linkDown_inv {s : State} (h : s.Inv) : (linkDown s).Inv := by
  have hhead := linkDown_qHead h.headBound
  have hpos := Nat.lt_of_le_of_lt (Nat.zero_le _) h.headBound
  rw [linkDown_eq, hhead]
  exact inv_iff.2 ⟨.of_cleared rfl rfl rfl rfl rfl, .of_init (fun _ => rfl) rfl,
    ⟨Nat.zero_le _, Nat.zero_le _, Nat.mod_lt _ hpos, nofun⟩⟩

theorem tick_inv {s : State} (h : s.Inv) (now : Time) : (tick now s).Inv := by
  have hstamp : (giveBack none (stampTick now s)).Inv :=
    inv_of_same h ⟨rfl, rfl, rfl, rfl, rfl, rfl, rfl⟩ rfl rfl rfl rfl
  obtain he | ⟨he, -⟩ | ⟨u, he, rfl | rfl⟩ := tick_cases now s <;> rw [he]
  · exact refuse_inv h
  · exact linkDown_inv hstamp
  · exact hstamp
  · obtain ⟨ht, hh, hr⟩ := inv_iff.1 hstamp
    have hd : ∀ u : State, SameDecoder u (resolveHead .timeout none now u) ∧ (resolveHead .timeout none now u).cfg = u.cfg :=
      fun u => by rw [resolveHead_frame]; exact ⟨⟨rfl, rfl, rfl, rfl, rfl, rfl, rfl⟩, rfl⟩
    obtain ⟨ht', hh'⟩ := DecoderInv.of_same ⟨ht, hh⟩ (hd _).1 (hd _).2
    exact inv_iff.2 ⟨ht', hh', resolveHead_ringInv hr _ _ now⟩

/-- A freshly built block meets the invariants where its ring has a slot. -/
theorem resetOf_inv {c : Config} (h : 0 < c.queueCap) : (State.resetOf c).Inv :=
  inv_iff.2 ⟨.of_cleared rfl rfl rfl rfl rfl, .of_init (fun _ => rfl) rfl, ⟨Nat.zero_le _, Nat.zero_le _, h, nofun⟩⟩

theorem resetBlock_inv {s : State} (h : s.Inv) : (resetBlock s).Inv :=
  inv_of_same (resetOf_inv (Nat.lt_of_le_of_lt (Nat.zero_le _) h.headBound)) ⟨rfl, rfl, rfl, rfl, rfl, rfl, rfl⟩ rfl rfl rfl
    rfl

/-- A received byte keeps the invariants whatever operation of the table delivers it. -/
theorem presents_inv {b : Byte} {now : Time} {i : Instr} {s t : State} (hi : Presents b now i) (hs : s.Inv)
    (h : exec i s = .next t) : t.Inv := by
  rw [exec_presents hi] at h
  cases h
  exact rxByte_inv hs b now

theorem exec_inv {i : Instr} (hwf : i.wf = true) {s t : State} (hs : s.Inv) (h : exec i s = .next t) : t.Inv := by
  cases i
  case rxByte b now => exact presents_inv .rxByte hs h
  case rxColon now => exact presents_inv (.rxColon rfl) hs h
  case rxLf now => exact presents_inv (.rxLf rfl) hs h
  case rxTab now => exact presents_inv (.rxTab rfl) hs h
  case rxCr now => exact presents_inv (.rxCr rfl) hs h
  case rxNul now => exact presents_inv (.rxNul rfl) hs h
  case rxHexdigit b now => exact presents_inv (.rxHexdigit hwf) hs h
  case rxHexdigitLower b now => exact presents_inv (.rxHexdigitLower hwf) hs h
  case rxOther b now => exact presents_inv (.rxOther hwf) hs h
  case tick now => cases h; exact tick_inv hs now
  case codecEncode | codecReencode | isConnected | reservedOp =>
    cases h; exact inv_of_same hs ⟨rfl, rfl, rfl, rfl, rfl, rfl, rfl⟩ rfl rfl rfl rfl
  case reset => cases h; exact resetBlock_inv hs
  case request | reqPing | reqAppVersion | reqProductId | reqRestart | reqGet | reqSet =>
    cases h; exact request_inv hs _ _ _ _ _
  all_goals cases h; exact feed_inv hs _ _

/-! ## The running timers -/

/-- An operation that is accepted at `now` leaves every running timer started at `now` or admitted by it (R346). -/
theorem timersExact_of_accepted {now : Time} {s t : State} (hok : s.nowOk now = true) (hnow : t.lastNow = some now)
    (htimer : TimerKept now s t) (hlink : t.connected = true → t.lastRx = now ∨ s.connected = true ∧ t.lastRx = s.lastRx) :
    t.TimersExact := by
  obtain ⟨-, hcmd, hrx⟩ := nowOk_iff.1 hok
  refine ⟨fun hq => ⟨now, hnow, ?_⟩, fun hc => ⟨now, hnow, ?_⟩⟩
  · obtain he | ⟨hq', he⟩ := htimer hq
    · rw [he, sub_self]; decide
    · rw [he]; exact hcmd hq'
  · obtain he | ⟨hc', he⟩ := hlink hc
    · rw [he, sub_self]; decide
    · rw [he]; exact hrx hc'

theorem timed_deliver_timersExact {s : State} (h : s.TimersExact) (now : Time) {fd : State → State × FdResult}
    (hfd : ∀ x, ByteFrame x (fd x)) : (timed now (deliver now fd) s).TimersExact := by
  cases hok : s.nowOk now with
  | false => rw [timed_bad hok]; exact h
  | true =>
    rw [timed_ok hok]
    obtain ⟨htimer, hrx, hnow⟩ := deliver_timer now hfd (stamp now s)
    exact timersExact_of_accepted hok hnow htimer fun _ => .inl hrx

theorem feed_timersExact {s : State} (h : s.TimersExact) (now : Time) (bs : List Byte) : (feed now bs s).TimersExact := by
  induction bs generalizing s with
  | nil => exact h
  | cons b bs ih => exact ih (timed_deliver_timersExact h now (fdStep_frame b))

theorem request_timersExact {s : State} (h : s.TimersExact) (cmd : Byte) (reg : Option RegId) (payload : List Byte)
    (tag : Tag) (now : Time) : (request cmd reg payload tag now s).TimersExact := by
  by_cases hrefused : tag = .internal ∨ s.cfg.reqRawCap < (requestRaw cmd reg payload).length ∨ s.nowOk now = false
  · rw [request_refused hrefused]; exact h
  · rw [not_or, not_or, Nat.not_lt, Bool.not_eq_false] at hrefused
    obtain ⟨htag, hlen, hok⟩ := hrefused
    obtain ⟨-, hc, hrx, -⟩ := request_frame cmd reg payload tag now s
    have hnow : (request cmd reg payload tag now s).lastNow = some now := by
      rw [request_admitted htag hlen hok, requestBody, enqueue_frame]; rfl
    have htimer : TimerKept now s (request cmd reg payload tag now s) := by
      rw [request_admitted htag hlen hok]; exact enqueue_timer _ now (stamp now s)
    exact timersExact_of_accepted hok hnow htimer fun hconn => .inr ⟨hc.symm.trans hconn, hrx⟩

theorem tick_timersExact {s : State} (h : s.TimersExact) (now : Time) : (tick now s).TimersExact := by
  cases hadm : (s.nowOk now && s.tickGapOk now) with
  | false => rw [tick, hadm]; exact h
  | true =>
    rw [tick, hadm, if_pos rfl, tickBody]
    obtain ⟨hok, -⟩ := Bool.and_eq_true_iff.1 hadm
    split_ifs
    · rw [linkDown_eq]; exact ⟨fun hq => absurd rfl hq, nofun⟩
    · refine timersExact_of_accepted hok (by rw [resolveHead_frame]; rfl)
        (resolveHead_timer .timeout none now (giveBack none (stampTick now s))) ?_
      rw [resolveHead_frame]
      exact fun hc => .inr ⟨hc, rfl⟩
    · exact timersExact_of_accepted hok rfl (fun hq => .inr ⟨hq, rfl⟩) fun hc => .inr ⟨hc, rfl⟩

theorem exec_timersExact {i : Instr} {s t : State} (hs : s.TimersExact) (h : exec i s = .next t) : t.TimersExact := by
  cases exec_effect h with
  | byte now fd hfd => exact timed_deliver_timersExact hs now hfd
  | frame raw now => exact feed_timersExact hs now _
  | ask cmd reg payload tag now => exact request_timersExact hs cmd reg payload tag now
  | tick now => exact tick_timersExact hs now
  | codecEncode | codecReencode | isConnected | reservedOp => exact hs
  | reset => exact ⟨fun hq => absurd rfl hq, nofun⟩

/-! ## The step -/

/-- A step waits, or performs a well-formed operation on the state without its bytes. -/
theorem step_next {s t : State} (h : step s = .next t) :
    t = s ∨ ∃ i rest, i.wf = true ∧ exec i { s with inq := rest } = .next t := by
  rw [step] at h
  split_ifs at h
  · cases h; exact .inl rfl
  · cases hf : fetch s with
    | error e => rw [hf] at h; cases h
    | ok r =>
      rw [hf] at h
      exact .inr ⟨r.1, r.2, (encodeDecodeRoundTrip s.inq r.1 r.2 hf).1, h⟩

end Sys2Proof.Machine

namespace Sys2Proof.Claims

open Sys2Proof.Machine

/-- Settles O10, from the invariants of each operation: taking the bytes off the input touches none of them. -/
theorem stepPreservesInv : Obligations.StepPreservesInv := by
  refine ⟨fun s t hs h => ?_, fun s t hs h => ?_⟩
  · obtain rfl | ⟨i, rest, hwf, hexec⟩ := step_next h
    · exact hs
    · have hs' : ({ s with inq := rest } : State).Inv :=
        inv_of_same hs ⟨rfl, rfl, rfl, rfl, rfl, rfl, rfl⟩ rfl rfl rfl rfl
      exact exec_inv hwf hs' hexec
  · obtain rfl | ⟨i, rest, -, hexec⟩ := step_next h
    · exact hs
    · exact exec_timersExact (s := { s with inq := rest }) hs hexec

/-- Settles O11: the buffers are empty, no timer runs, and an admitted ring has a slot (R344). -/
theorem resetMeetsInv : Obligations.ResetMeetsInv := by
  have hreset : ∀ c : Config, c.wf = true → (State.resetOf c).Inv ∧ (State.resetOf c).TimersExact := fun c hc => by
    refine ⟨resetOf_inv ?_, fun hq => absurd rfl hq, nofun⟩
    simp only [Config.wf, Bool.and_eq_true, decide_eq_true_eq] at hc
    omega
  exact ⟨hreset, hreset Config.reference (by decide)⟩

end Sys2Proof.Claims
end
